-- ==== Sys2Proof/Word.lean ====
section
/-! DEFINITION. The word types of the block: every host register is 32 bits wide (00_scope.md rule R7, `REG_WIDTH`)
and the data memory is read one byte at a time (20_memory.md rule R52). A value of CRC width `w` is a `BitVec w`;
all arithmetic is unsigned and logical (00_scope.md rule R9), which is what `BitVec`'s `^^^`, `>>>`, `<<<` and
`setWidth` are. -/

namespace Sys2Proof

/-- A 32-bit host register or command word (00_scope.md rule R7). -/
abbrev Word := BitVec 32

/-- A byte of data memory, and the index of a table entry (00_scope.md rule R7, `TABLE_ENTRIES`). -/
abbrev Byte := BitVec 8

end Sys2Proof
end

