-- ==== Sys2Proof/Config.lean ====
section
/-! DEFINITION. What is fixed for one machine and what the spec leaves free: the shape of a registry key
(10_state.md rule R30), the free value of a byte that another agent writes during a command (20_memory.md rule R62),
and the unused parameter HOST_BYTE_ORDER (00_scope.md rule R7). The OPEN parameters BLOCK_BASE and `Readable` are
arguments that a statement must range over, so they stand in State (log entries 2 and 3). -/

namespace Sys2Proof.Config

/-- The key of one registry table: a polynomial at a CRC width in bits (10_state.md rule R30). -/
structure RegistryKey where
  width : Nat
  poly : Word
  deriving DecidableEq, Repr

/-- The two byte-lane orders a platform could have (00_scope.md rule R7, `HOST_BYTE_ORDER`). -/
inductive ByteOrder where
  | little
  | big
  deriving DecidableEq, Repr, Inhabited

/-- HOST_BYTE_ORDER, OPEN and unused: a sub-word host access is refused (20_memory.md rule R55), so nothing of the
model reads it (92_eei_decisions.md D12; log entry 3). -/
opaque hostByteOrder : ByteOrder

/-- FREE VALUE. The byte that the `n`-th evaluation reads at data address `a` when another agent writes that byte
during the command: any 8-bit value (20_memory.md rule R62 (d); 93_implementation_defined.md I5; log entry 4). It has
no body, so nothing can be proved of its value. -/
opaque drawByte (n : Nat) (a : Nat) : Byte

end Sys2Proof.Config
end

