-- ==== Sys2Proof/Syntax.lean ====
section
/-! DEFINITION. The commands of the block: one constructor per row of spec/opcode_table.json (30_encoding.md rule
R74). A row's free bits are the constructor's arguments: IR and RR of the EVAL rows, M of the TBUILD width-fault
rows. -/

namespace Sys2Proof

/-- The 27 command-word classes of 30_encoding.md rule R74, in the table's order. -/
inductive Instr where
  /-- `rev.8` (40_bit_reflector.md rule R101). -/
  | rev8
  /-- `rev.16` (rule R101). -/
  | rev16
  /-- `rev.32` (rule R101). -/
  | rev32
  /-- `tbuild.f.8` (41_table_builder.md rules R120, R121). -/
  | tbuildF8
  /-- `tbuild.f.16` (rules R120, R121). -/
  | tbuildF16
  /-- `tbuild.f.32` (rules R120, R121). -/
  | tbuildF32
  /-- `tbuild.r.8` (rules R120, R122). -/
  | tbuildR8
  /-- `tbuild.r.16` (rules R120, R122). -/
  | tbuildR16
  /-- `tbuild.r.32` (rules R120, R122). -/
  | tbuildR32
  /-- `eval.8`, which always faults (42_crc_evaluator.md rule R141). -/
  | eval8 (ir rr : Bool)
  /-- `eval.16` (rule R140). -/
  | eval16 (ir rr : Bool)
  /-- `eval.32` (rule R140). -/
  | eval32 (ir rr : Bool)
  /-- `rev.bw0` (30_encoding.md rule R73). -/
  | revBw0
  /-- `rev.bw3` (rule R73). -/
  | revBw3
  /-- `rev.bw5` (rule R73). -/
  | revBw5
  /-- `rev.bw6` (rule R73). -/
  | revBw6
  /-- `rev.bw7` (rule R73). -/
  | revBw7
  /-- `tbuild.bw0` (rule R73). -/
  | tbuildBw0 (m : Bool)
  /-- `tbuild.bw3` (rule R73). -/
  | tbuildBw3 (m : Bool)
  /-- `tbuild.bw5` (rule R73). -/
  | tbuildBw5 (m : Bool)
  /-- `tbuild.bw6` (rule R73). -/
  | tbuildBw6 (m : Bool)
  /-- `tbuild.bw7` (rule R73). -/
  | tbuildBw7 (m : Bool)
  /-- `eval.bw0` (rule R73). -/
  | evalBw0 (ir rr : Bool)
  /-- `eval.bw3` (rule R73). -/
  | evalBw3 (ir rr : Bool)
  /-- `eval.bw5` (rule R73). -/
  | evalBw5 (ir rr : Bool)
  /-- `eval.bw6` (rule R73). -/
  | evalBw6 (ir rr : Bool)
  /-- `eval.bw7` (rule R73). -/
  | evalBw7 (ir rr : Bool)
  deriving DecidableEq, Repr

end Sys2Proof
end

