-- ==== Sys2Proof/WellFormed.lean ====
section
/-! DEFINITION. When the fields of a command word are legal (30_encoding.md rule R71): the reserved bits are 0, OP is
one of REV, TBUILD and EVAL, and no flag is set that the operation does not use. Every term of `Instr` has legal
fields, because a constructor carries exactly the bits its row leaves free; the words that fail a check are the
ILLEGAL_COMMAND words of rule R75, which no term of `Instr` stands for. -/

namespace Sys2Proof

/-- A command word taken apart as 30_encoding.md rule R71 lays it out. -/
structure CommandFields where
  /-- bits [3:0] -/
  op : BitVec 4
  /-- bits [6:4], the literal `byte_width` -/
  bw : BitVec 3
  /-- bit [7], reserved -/
  bit7 : Bool
  /-- bit [8], TBUILD's `reflect` -/
  m : Bool
  /-- bit [9], EVAL's `input_reflected` -/
  ir : Bool
  /-- bit [10], EVAL's `result_reflected` -/
  rr : Bool
  /-- bits [31:11], reserved -/
  high : BitVec 21
  deriving DecidableEq, Repr

/-- "reserved, must be 0" (rule R71). -/
def CommandFields.reservedClear (f : CommandFields) : Bool := f.high == 0 && !f.bit7

/-- "0x1 REV, 0x2 TBUILD, 0x3 EVAL; every other value is reserved" (rule R71). -/
def CommandFields.opDefined (f : CommandFields) : Bool := f.op == 1 || f.op == 2 || f.op == 3

/-- M is TBUILD's only: "must be 0 for REV and EVAL" (rule R71). -/
def CommandFields.modeAllowed (f : CommandFields) : Bool := f.op == 2 || !f.m

/-- IR and RR are EVAL's only: "must be 0 for REV and TBUILD" (rule R71). -/
def CommandFields.reflectionAllowed (f : CommandFields) : Bool := f.op == 3 || (!f.ir && !f.rr)

/-- All the checks of rule R71. BW is not among them: a BW outside 1, 2 and 4 is a command that decodes and faults
UNSUPPORTED_WIDTH (rule R75). -/
def CommandFields.wellFormed (f : CommandFields) : Bool :=
  f.reservedClear && f.opDefined && f.modeAllowed && f.reflectionAllowed

/-- The fields of a REV command of byte width `bw`. -/
def CommandFields.ofRev (bw : BitVec 3) : CommandFields := ⟨1, bw, false, false, false, false, 0⟩

/-- The fields of a TBUILD command of byte width `bw` in mode `m`. -/
def CommandFields.ofTbuild (bw : BitVec 3) (m : Bool) : CommandFields := ⟨2, bw, false, m, false, false, 0⟩

/-- The fields of an EVAL command of byte width `bw` with the two reflection flags. -/
def CommandFields.ofEval (bw : BitVec 3) (ir rr : Bool) : CommandFields := ⟨3, bw, false, false, ir, rr, 0⟩

/-- The fields of a command, row by row of rule R74. -/
def Instr.fields : Instr → CommandFields
  | .rev8 => .ofRev 1
  | .rev16 => .ofRev 2
  | .rev32 => .ofRev 4
  | .tbuildF8 => .ofTbuild 1 false
  | .tbuildF16 => .ofTbuild 2 false
  | .tbuildF32 => .ofTbuild 4 false
  | .tbuildR8 => .ofTbuild 1 true
  | .tbuildR16 => .ofTbuild 2 true
  | .tbuildR32 => .ofTbuild 4 true
  | .eval8 ir rr => .ofEval 1 ir rr
  | .eval16 ir rr => .ofEval 2 ir rr
  | .eval32 ir rr => .ofEval 4 ir rr
  | .revBw0 => .ofRev 0
  | .revBw3 => .ofRev 3
  | .revBw5 => .ofRev 5
  | .revBw6 => .ofRev 6
  | .revBw7 => .ofRev 7
  | .tbuildBw0 m => .ofTbuild 0 m
  | .tbuildBw3 m => .ofTbuild 3 m
  | .tbuildBw5 m => .ofTbuild 5 m
  | .tbuildBw6 m => .ofTbuild 6 m
  | .tbuildBw7 m => .ofTbuild 7 m
  | .evalBw0 ir rr => .ofEval 0 ir rr
  | .evalBw3 ir rr => .ofEval 3 ir rr
  | .evalBw5 ir rr => .ofEval 5 ir rr
  | .evalBw6 ir rr => .ofEval 6 ir rr
  | .evalBw7 ir rr => .ofEval 7 ir rr

/-- A command is well-formed when its fields pass the checks of rule R71. -/
def Instr.wellFormed (i : Instr) : Bool := i.fields.wellFormed

end Sys2Proof
end

