-- ==== Sys2Proof/Decode.lean ====
section
/-! DEFINITION. Decoding a command word (30_encoding.md rule R73) and encoding a command (rules R71 and R74). Decoding
is total: a word gives a command, or the name of the first check of rule R73 that it fails. -/

namespace Sys2Proof

/-- The check of 30_encoding.md rule R73 that makes a word illegal. The block takes the one fault ILLEGAL_COMMAND for
all of them (60_exceptions.md rule R201); the name says why. -/
inductive Illegal where
  /-- bit 7 or a bit of [31:11] is set -/
  | reservedBits
  /-- OP is none of 1, 2, 3 -/
  | reservedOp
  /-- REV with M, IR or RR -/
  | revFlag
  /-- TBUILD with IR or RR -/
  | tbuildFlag
  /-- EVAL with M -/
  | evalMode
  deriving DecidableEq, Repr

/-- Field OP, bits [3:0] (rule R71). -/
def fieldOp (c : Word) : BitVec 4 := c.extractLsb' 0 4

/-- Field BW, bits [6:4] (rule R71). -/
def fieldBw (c : Word) : BitVec 3 := c.extractLsb' 4 3

/-- Reserved bit [7] (rule R71). -/
def fieldBit7 (c : Word) : Bool := c.getLsbD 7

/-- Field M, bit [8] (rule R71). -/
def fieldM (c : Word) : Bool := c.getLsbD 8

/-- Field IR, bit [9] (rule R71). -/
def fieldIr (c : Word) : Bool := c.getLsbD 9

/-- Field RR, bit [10] (rule R71). -/
def fieldRr (c : Word) : Bool := c.getLsbD 10

/-- Reserved bits [31:11] (rule R71). -/
def fieldHigh (c : Word) : BitVec 21 := c.extractLsb' 11 21

/-- A command word taken apart into the fields of rule R71. -/
def wordFields (c : Word) : CommandFields :=
  ⟨fieldOp c, fieldBw c, fieldBit7 c, fieldM c, fieldIr c, fieldRr c, fieldHigh c⟩

/-- The REV row with byte width `bw` (rule R74). -/
def decodeRev (bw : BitVec 3) : Instr :=
  match bw.toNat with
  | 0 => .revBw0
  | 1 => .rev8
  | 2 => .rev16
  | 3 => .revBw3
  | 4 => .rev32
  | 5 => .revBw5
  | 6 => .revBw6
  | _ => .revBw7

/-- The TBUILD row with byte width `bw` in mode `m` (rule R74). -/
def decodeTbuild (bw : BitVec 3) (m : Bool) : Instr :=
  match bw.toNat with
  | 0 => .tbuildBw0 m
  | 1 => if m then .tbuildR8 else .tbuildF8
  | 2 => if m then .tbuildR16 else .tbuildF16
  | 3 => .tbuildBw3 m
  | 4 => if m then .tbuildR32 else .tbuildF32
  | 5 => .tbuildBw5 m
  | 6 => .tbuildBw6 m
  | _ => .tbuildBw7 m

/-- The EVAL row with byte width `bw` and the two reflection flags (rule R74). -/
def decodeEval (bw : BitVec 3) (ir rr : Bool) : Instr :=
  match bw.toNat with
  | 0 => .evalBw0 ir rr
  | 1 => .eval8 ir rr
  | 2 => .eval16 ir rr
  | 3 => .evalBw3 ir rr
  | 4 => .eval32 ir rr
  | 5 => .evalBw5 ir rr
  | 6 => .evalBw6 ir rr
  | _ => .evalBw7 ir rr

/-- `decode(c)` of rule R73: the checks in its order, the first that applies decides. A BW outside 1, 2 and 4 gives
the width-fault row of the operation, whose meaning is the UNSUPPORTED_WIDTH fault of rule R73's last check. -/
def decode (c : Word) : Except Illegal Instr :=
  if fieldHigh c ≠ 0 ∨ fieldBit7 c then .error .reservedBits
  else if fieldOp c ≠ 1 ∧ fieldOp c ≠ 2 ∧ fieldOp c ≠ 3 then .error .reservedOp
  else if fieldOp c = 1 ∧ (fieldM c || fieldIr c || fieldRr c) then .error .revFlag
  else if fieldOp c = 2 ∧ (fieldIr c || fieldRr c) then .error .tbuildFlag
  else if fieldOp c = 3 ∧ fieldM c then .error .evalMode
  else if fieldOp c = 1 then .ok (decodeRev (fieldBw c))
  else if fieldOp c = 2 then .ok (decodeTbuild (fieldBw c) (fieldM c))
  else .ok (decodeEval (fieldBw c) (fieldIr c) (fieldRr c))

/-- A command word from its fields, reserved bits 0 (rule R71): RR, IR, M, bit 7, BW, OP from bit 10 down. -/
def commandWord (op : BitVec 4) (bw : BitVec 3) (m ir rr : Bool) : Word :=
  (0#21 ++ BitVec.ofBool rr ++ BitVec.ofBool ir ++ BitVec.ofBool m ++ 0#1 ++ bw ++ op : BitVec 32)

/-- The word of a command: the `match` column of rule R74, with the row's free bits filled in. -/
def encode : Instr → Word
  | .rev8 => commandWord 1 1 false false false
  | .rev16 => commandWord 1 2 false false false
  | .rev32 => commandWord 1 4 false false false
  | .tbuildF8 => commandWord 2 1 false false false
  | .tbuildF16 => commandWord 2 2 false false false
  | .tbuildF32 => commandWord 2 4 false false false
  | .tbuildR8 => commandWord 2 1 true false false
  | .tbuildR16 => commandWord 2 2 true false false
  | .tbuildR32 => commandWord 2 4 true false false
  | .eval8 ir rr => commandWord 3 1 false ir rr
  | .eval16 ir rr => commandWord 3 2 false ir rr
  | .eval32 ir rr => commandWord 3 4 false ir rr
  | .revBw0 => commandWord 1 0 false false false
  | .revBw3 => commandWord 1 3 false false false
  | .revBw5 => commandWord 1 5 false false false
  | .revBw6 => commandWord 1 6 false false false
  | .revBw7 => commandWord 1 7 false false false
  | .tbuildBw0 m => commandWord 2 0 m false false
  | .tbuildBw3 m => commandWord 2 3 m false false
  | .tbuildBw5 m => commandWord 2 5 m false false
  | .tbuildBw6 m => commandWord 2 6 m false false
  | .tbuildBw7 m => commandWord 2 7 m false false
  | .evalBw0 ir rr => commandWord 3 0 false ir rr
  | .evalBw3 ir rr => commandWord 3 3 false ir rr
  | .evalBw5 ir rr => commandWord 3 5 false ir rr
  | .evalBw6 ir rr => commandWord 3 6 false ir rr
  | .evalBw7 ir rr => commandWord 3 7 false ir rr

/-- The suffixes `.ir` and `.rr` of an EVAL mnemonic, in that order (rule R76). -/
def flagSuffix (ir rr : Bool) : String :=
  (if ir then ".ir" else "") ++ (if rr then ".rr" else "")

/-- The assembler spelling of a command: its mnemonic of rule R74 with the suffixes of rule R76. Rule R76 gives the
TBUILD width-fault rows no suffix for M, so both values of M print alike. -/
def Instr.mnemonic : Instr → String
  | .rev8 => "rev.8"
  | .rev16 => "rev.16"
  | .rev32 => "rev.32"
  | .tbuildF8 => "tbuild.f.8"
  | .tbuildF16 => "tbuild.f.16"
  | .tbuildF32 => "tbuild.f.32"
  | .tbuildR8 => "tbuild.r.8"
  | .tbuildR16 => "tbuild.r.16"
  | .tbuildR32 => "tbuild.r.32"
  | .eval8 ir rr => "eval.8" ++ flagSuffix ir rr
  | .eval16 ir rr => "eval.16" ++ flagSuffix ir rr
  | .eval32 ir rr => "eval.32" ++ flagSuffix ir rr
  | .revBw0 => "rev.bw0"
  | .revBw3 => "rev.bw3"
  | .revBw5 => "rev.bw5"
  | .revBw6 => "rev.bw6"
  | .revBw7 => "rev.bw7"
  | .tbuildBw0 _ => "tbuild.bw0"
  | .tbuildBw3 _ => "tbuild.bw3"
  | .tbuildBw5 _ => "tbuild.bw5"
  | .tbuildBw6 _ => "tbuild.bw6"
  | .tbuildBw7 _ => "tbuild.bw7"
  | .evalBw0 ir rr => "eval.bw0" ++ flagSuffix ir rr
  | .evalBw3 ir rr => "eval.bw3" ++ flagSuffix ir rr
  | .evalBw5 ir rr => "eval.bw5" ++ flagSuffix ir rr
  | .evalBw6 ir rr => "eval.bw6" ++ flagSuffix ir rr
  | .evalBw7 ir rr => "eval.bw7" ++ flagSuffix ir rr

/-- The low `nbits` bits of `w` as a command word, every bit above them 0. -/
def tableWord (nbits w : Nat) : Word := BitVec.ofNat 32 (w % 2 ^ nbits)

/-- What the decoder reads from an instruction whose bits are `w`, numbered as spec/opcode_table.json numbers them.
Every row has one 32-bit word (30_encoding.md rule R70), which is not stored in memory, so no byte order arises. -/
def decodeTableWord (nbits w : Nat) : Option Instr :=
  match decode (tableWord nbits w) with
  | .ok i => some i
  | .error _ => none

end Sys2Proof
end

