-- ==== Sys2Proof/Machine/State.lean ====
section
/-! DEFINITION. The state of the machine: the block's own state (10_state.md rule R20), the host's data memory and the
parameters it reads (00_scope.md rule R7), and the host transactions still to come (43_host_interface.md rule R175). -/

namespace Sys2Proof.Machine

/-- The eight argument registers, by name (10_state.md rule R22). -/
inductive ArgReg where
  | poly
  | crc
  | init
  | xin
  | xout
  | addr
  | size
  | val
  deriving DecidableEq, Repr

/-- The contents of the argument registers (rule R21). -/
structure ArgRegs where
  poly : Word
  crc : Word
  init : Word
  xin : Word
  xout : Word
  addr : Word
  size : Word
  val : Word
  deriving DecidableEq, Repr

/-- The registers of the host register map (rule R21), by name. -/
inductive HostReg where
  | cmd
  | status
  | fcmd
  | result
  | arg (r : ArgReg)
  | tbuf (i : Byte)
  deriving DecidableEq, Repr

/-- The causes of a fault of the block (60_exceptions.md rule R201). Taking one is a NEXT state (rule R203). -/
inductive Cause where
  | illegalCommand
  | unsupportedWidth
  | unsupportedPoly
  | sizeRange
  | bufferAccess
  deriving DecidableEq, Repr

/-- The width of a host access: 8, 16 or 32 bits (20_memory.md rule R55). -/
inductive AccessSize where
  | byte
  | half
  | word
  deriving DecidableEq, Repr

/-- What the outside world does to the block, one item a step. `write` and `read` are the host transactions of
43_host_interface.md rules R170 to R173, at a byte address of the host's space; `reset` is the reset input
(70_reset_and_hazards.md rule R230); the last three are the host's and the platform's acts on data memory that rules
R52, R62 and R233 speak of. -/
inductive Transaction where
  /-- a host write of `data` at host address `addr` -/
  | write (addr : Nat) (size : AccessSize) (data : Word)
  /-- a host read at host address `addr` -/
  | read (addr : Nat) (size : AccessSize)
  /-- the reset input is asserted -/
  | reset
  /-- the host makes the data byte at `a` readable with contents `b` -/
  | storeByte (a : Word) (b : Byte)
  /-- the data byte at `a` stops being readable -/
  | hideByte (a : Word)
  /-- from now on another agent writes exactly the bytes at `addrs` while a command runs (rule R62 (d)) -/
  | contend (addrs : List Nat)
  deriving DecidableEq, Repr

/-- Data memory: (address, byte) pairs. An address is `Readable` (00_scope.md rule R7) exactly when it is listed; an
unlisted address has no value the block could read. DESIGN CHOICE, log entry 2. -/
abbrev Memory := List Host.Cell

/-- The state of the machine. -/
structure State where
  /-- POLY, CRC, INIT, XIN, XOUT, ADDR, SIZE, VAL (10_state.md rules R21, R22) -/
  args : ArgRegs
  /-- RESULT (rule R25) -/
  result : Word
  /-- STATUS, the fault latch (rule R26) -/
  status : Word
  /-- FCMD (rule R27) -/
  fcmd : Word
  /-- TBUF, each word with its written mark (rules R29, R34) -/
  tbuf : Vector (Option Word) 256
  /-- the host's data memory and `Readable` (rules R51, R52); not the block's state -/
  mem : Memory
  /-- BLOCK_BASE (00_scope.md rule R7), a parameter -/
  blockBase : Nat
  /-- the transactions still to come, the next one first (rule R175) -/
  pending : List Transaction
  /-- the values the host's reads returned, the oldest first (rules R172, R175) -/
  reads : List Word
  /-- the data addresses another agent writes while a command runs (rule R62 (d)) -/
  contended : List Nat
  /-- the counter of the free value `Config.drawByte`; the model's own (log entry 4) -/
  draws : Nat
  deriving DecidableEq, Repr

/-- Why the machine stops with a fault. The block's own faults are not here: they latch and the machine goes on. -/
inductive Fault where
  /-- Raised by a host read of a TBUF word when no TBUILD has written it since reset: "The model treats it as a
  fault of the host transaction, not as any number" (10_state.md rule R34). Safe: the hardware returns some word. -/
  | unwrittenTableWord
  deriving DecidableEq, Repr

/-- Why a step has no meaning. -/
inductive Refusal where
  /-- Raised by `exec` for an instruction that has no meaning yet; no arm raises it. Safe. -/
  | notModelled (mnemonic : String)
  /-- Raised by a host access of 8 or 16 bits (20_memory.md rule R55: "The model refuses it"). Safe. -/
  | subWordAccess
  /-- Raised by a host access at an offset that is no multiple of 4 (rule R55). Safe. -/
  | misalignedAccess
  /-- Raised by a host access outside the map: 0x030 to 0x3FC, 0x800 and above (rule R56), or below BLOCK_BASE. Safe. -/
  | unmappedAccess
  deriving DecidableEq, Repr

/-- Every argument register at its reset value, 0 (10_state.md rule R21). -/
def ArgRegs.zero : ArgRegs := ⟨0, 0, 0, 0, 0, 0, 0, 0⟩

/-- The machine right after reset (70_reset_and_hazards.md rule R230): every register 0, every TBUF word unwritten. The
outside world is at rest: nothing listed in data memory (log entry 2), BLOCK_BASE 0 (log entry 3), no transaction to
come and none done (log entry 1), no contended byte (log entry 4). -/
def State.reset : State where
  args := ArgRegs.zero
  result := 0
  status := 0
  fcmd := 0
  tbuf := Vector.replicate 256 none
  mem := []
  blockBase := 0
  pending := []
  reads := []
  contended := []
  draws := 0

end Sys2Proof.Machine
end

