-- ==== Sys2Proof/Machine/Flags.lean ====
section
/-! DEFINITION. STATUS, the only flag register (10_state.md rules R26, R31): its fields, and the word a fault leaves in
it (60_exceptions.md rule R203). -/

namespace Sys2Proof.Machine

/-- STATUS.FAULTED, bit 0 (rule R26). -/
def State.faulted (s : State) : Bool := s.status.getLsbD 0

/-- STATUS.CAUSE, bits [7:4] (rule R26). -/
def State.cause (s : State) : BitVec 4 := s.status.extractLsb' 4 4

/-- The cause codes of 60_exceptions.md rule R201. -/
def Cause.code : Cause → BitVec 4
  | .illegalCommand => 1
  | .unsupportedWidth => 2
  | .unsupportedPoly => 3
  | .sizeRange => 4
  | .bufferAccess => 5

/-- The STATUS word of a fault of cause `k`: `zext_32(k << 4) | 0x00000001` (60_exceptions.md rule R203). -/
def Cause.statusWord (k : Cause) : Word := (k.code.setWidth 32 <<< 4) ||| 1

end Sys2Proof.Machine
end

