-- ==== Sys2Proof/Machine/Ops.lean ====
section
/-! DEFINITION. The named operations over registers and memory, and taking a fault, the block's only exception
(60_exceptions.md rule R200), with the one way back from it, reset (rule R206). -/

namespace Sys2Proof.Machine

/-! ### Data memory -/

/-- The byte at address `a` where it is readable, nothing where it is not (20_memory.md rule R52). -/
def Memory.read : Memory → Nat → Option Byte
  | [], _ => none
  | (k, b) :: m, a => if k = a then some b else Memory.read m a

/-- The memory with byte `b` at address `a`, in the canonical form. Only the host writes data memory (rule R53). -/
def Memory.write : Memory → Nat → Byte → Memory
  | [], a, b => [(a, b)]
  | (k, v) :: m, a, b =>
    if a < k then (a, b) :: (k, v) :: m
    else if a = k then (a, b) :: m
    else (k, v) :: Memory.write m a b

/-- The memory in which address `a` is not readable. -/
def Memory.hide (m : Memory) (a : Nat) : Memory := m.filter fun c => c.1 ≠ a

/-- The canonical form: addresses strictly rising, all in the 32-bit data space (20_memory.md rule R50). No entry can
equal what an unlisted address reads as, because that is no value. -/
abbrev Memory.wf (m : Memory) : Prop := m.Pairwise (fun x y => x.1 < y.1) ∧ ∀ c ∈ m, c.1 < 2 ^ 32

/-! ### Registers -/

/-- The value of an argument register (10_state.md rule R22). -/
def ArgRegs.get (g : ArgRegs) : ArgReg → Word
  | .poly => g.poly
  | .crc => g.crc
  | .init => g.init
  | .xin => g.xin
  | .xout => g.xout
  | .addr => g.addr
  | .size => g.size
  | .val => g.val

/-- The argument registers after a host write of `v` to `r`: all 32 bits are stored (43_host_interface.md rule R170). -/
def ArgRegs.set (g : ArgRegs) (r : ArgReg) (v : Word) : ArgRegs :=
  match r with
  | .poly => { g with poly := v }
  | .crc => { g with crc := v }
  | .init => { g with init := v }
  | .xin => { g with xin := v }
  | .xout => { g with xout := v }
  | .addr => { g with addr := v }
  | .size => { g with size := v }
  | .val => { g with val := v }

/-- `x[r] <- v` for an argument register (rule R170). -/
def State.setArg (s : State) (r : ArgReg) (v : Word) : State := { s with args := s.args.set r v }

/-- `x[RESULT] <- v` (10_state.md rule R25). -/
def State.setResult (s : State) (v : Word) : State := { s with result := v }

/-- A table of 256 entries as the buffer holds it, every word marked written. -/
def tableOf (entry : Byte → Word) : Vector (Option Word) 256 :=
  ⟨⟨(List.range 256).map fun i => some (entry (BitVec.ofNat 8 i))⟩, by simp⟩

/-- `TBUF[i] <- entry i` for all i (10_state.md rule R29). -/
def State.setTable (s : State) (entry : Byte → Word) : State := { s with tbuf := tableOf entry }

/-- Word `i` of TBUF, nothing where no TBUILD has written it since reset (rule R34). -/
def State.tbufWord (s : State) (i : Byte) : Option Word := s.tbuf[i.toNat]'i.isLt

/-- The counter of the free value moves on, so that a later evaluation draws afresh (log entry 4). -/
def State.nextDraw (s : State) : State := { s with draws := s.draws + 1 }

/-- The value `v` reaches the host (43_host_interface.md rule R172). -/
def State.logRead (s : State) (v : Word) : State := { s with reads := s.reads ++ [v] }

/-- The transactions still to come are `ts`. -/
def State.setPending (s : State) (ts : List Transaction) : State := { s with pending := ts }

/-- The data memory is `m`: an act of the host (20_memory.md rule R51). -/
def State.setMem (s : State) (m : Memory) : State := { s with mem := m }

/-- The bytes another agent writes while a command runs are those at `addrs` (20_memory.md rule R62 (d)). -/
def State.setContended (s : State) (addrs : List Nat) : State := { s with contended := addrs }

/-! ### Taking a fault, and the return from it -/

/-- Taking a fault of cause `k` on command word `c`: STATUS and FCMD are written and "Nothing else changes"
(60_exceptions.md rule R203). -/
def State.takeFault (s : State) (k : Cause) (c : Word) : State :=
  { s with status := k.statusWord, fcmd := c }

/-- The reset input (70_reset_and_hazards.md rule R230), the only return from a fault (60_exceptions.md rule R206): the
block's state is as after reset, whatever it was doing. Data memory, the parameters and the host's transactions are
not part of the block. -/
def State.resetBlock (s : State) : State :=
  { State.reset with
    mem := s.mem
    blockBase := s.blockBase
    pending := s.pending
    reads := s.reads
    contended := s.contended
    draws := s.draws }

/-- Issuing a command whose whole effect is `run`: "While STATUS.FAULTED = 1, every write to CMD is ignored"
(60_exceptions.md rule R205), else the effect is committed at once (10_state.md rule R36). -/
def issue (s : State) (run : State → State) : Host.Outcome State Fault Refusal :=
  .next (if s.faulted then s else run s)

/-- A word that is no command raises ILLEGAL_COMMAND (30_encoding.md rules R73 to R75). -/
def execIllegal (c : Word) (s : State) : Host.Outcome State Fault Refusal :=
  issue s fun s => s.takeFault .illegalCommand c

end Sys2Proof.Machine
end

