-- ==== Sys2Proof/Machine/Operands.lean ====
section
/-! DEFINITION. The operand forms: an argument register at the command's width (10_state.md rule R35, 30_encoding.md
rule R72) and the buffer of an EVAL in data memory (20_memory.md rules R51, R52, R54, R57). -/

namespace Sys2Proof.Machine

/-- `x_W[r]`, the low `w` bits of an argument register (10_state.md rules R22, R35). -/
def State.operand (s : State) (w : Nat) (r : ArgReg) : BitVec w := (s.args.get r).setWidth w

/-- The size precondition holds: `zext_33(x[ADDR]) + zext_33(x[SIZE])` is at most 2^32 (20_memory.md rule R57). -/
def State.bufferInRange (s : State) : Bool := s.args.addr.toNat + s.args.size.toNat ≤ 2 ^ 32

/-- `MemRead(a, 1)` (20_memory.md rule R52): nothing where `a` is not readable; a draw where another agent writes the
byte during the command (rule R62 (d)); else the byte of data memory. -/
def State.memRead (s : State) (a : Nat) : Option Byte :=
  match s.mem.read a with
  | none => none
  | some b => if a ∈ s.contended then some (Config.drawByte s.draws a) else some b

/-- The `n` bytes at addresses `a`, `a+1`, …, each read once in increasing order (20_memory.md rules R54, R59); nothing
if one of them is not readable (rule R52). -/
def State.readBytes (s : State) (a : Nat) : Nat → Option (List Byte)
  | 0 => some []
  | n + 1 =>
    match s.memRead a with
    | none => none
    | some b => (State.readBytes s (a + 1) n).map (b :: ·)

/-- The buffer of an EVAL: the SIZE bytes from ADDR on (20_memory.md rule R51). -/
def State.buffer (s : State) : Option (List Byte) := s.readBytes s.args.addr.toNat s.args.size.toNat

end Sys2Proof.Machine
end

