-- ==== Sys2Proof/Machine/Bits.lean ====
section
/-! DEFINITION. The Bit Reflector's function `rev_W` (00_scope.md rule R10, 40_bit_reflector.md rule R101). -/

namespace Sys2Proof.Machine

/-- The first `n` turns of rule R101's loop: `r[W-1-i] = v[i]` for i below `n`, from `r = 0`. -/
def revLoop {w : Nat} (v : BitVec w) : Nat → BitVec w
  | 0 => 0#w
  | n + 1 => if v.getLsbD n then revLoop v n ||| BitVec.twoPow w (w - 1 - n) else revLoop v n

/-- `rev_W(v)`: bit W-1-i of the result is bit i of `v`. -/
def rev {w : Nat} (v : BitVec w) : BitVec w := revLoop v w

/-- The three paired swaps of 40_bit_reflector.md rule R102, which give `rev_8`. -/
def revByteSwaps (b : Byte) : Byte :=
  let b := ((b &&& 0xF0) >>> 4) ||| ((b &&& 0x0F) <<< 4)
  let b := ((b &&& 0xCC) >>> 2) ||| ((b &&& 0x33) <<< 2)
  ((b &&& 0xAA) >>> 1) ||| ((b &&& 0x55) <<< 1)

end Sys2Proof.Machine
end

