-- ==== Sys2Proof/Machine/Tables.lean ====
section
/-! DEFINITION. The entries of the two kinds of lookup table: forward mode (41_table_builder.md rule R121, which
follows 90_conflicts.md C1) and reflected mode (rule R122). -/

namespace Sys2Proof.Machine

/-- One of the eight turns of rule R121: test bit 0, shift right, XOR with the reflected polynomial `rp`. -/
def fwdStep {w : Nat} (rp r : BitVec w) : BitVec w := if r.getLsbD 0 then (r >>> 1) ^^^ rp else r >>> 1

/-- `FWD_TABLE(p, W)[b]` (rule R121). -/
def fwdEntry {w : Nat} (p : BitVec w) (b : Byte) : BitVec w := (fwdStep (rev p))^[8] (b.setWidth w)

/-- One of the eight turns of rule R122: test bit W-1, shift left dropping it, XOR with the polynomial `p`. -/
def refStep {w : Nat} (p r : BitVec w) : BitVec w := if r.getLsbD (w - 1) then (r <<< 1) ^^^ p else r <<< 1

/-- `REF_TABLE(p, W)[d]` (rule R122). -/
def refEntry {w : Nat} (p : BitVec w) (d : Byte) : BitVec w := (refStep p)^[8] (d.setWidth w <<< (w - 8))

end Sys2Proof.Machine
end

