-- ==== Sys2Proof/Machine/Registry.lean ====
section
/-! DEFINITION. The registry ROM (10_state.md rule R30): seven forward-mode tables, fixed from reset on and written by
nothing, so it is a constant of the model and no field of State. -/

namespace Sys2Proof.Machine

/-- The seven keys (10_state.md rule R30, 42_crc_evaluator.md rule R141). -/
def registryKeys : List Config.RegistryKey :=
  [⟨16, 0x1021⟩, ⟨16, 0xC867⟩, ⟨16, 0x8005⟩,
   ⟨32, 0x04C11DB7⟩, ⟨32, 0x1EDC6F41⟩, ⟨32, 0xA833982B⟩, ⟨32, 0x814141AB⟩]

/-- `RegistryHas(p, W)` (42_crc_evaluator.md rule R141). -/
def registryHas {w : Nat} (p : BitVec w) : Bool := registryKeys.contains ⟨w, p.setWidth 32⟩

/-- `REG_TABLE(p, W)[i]`, which is `FWD_TABLE(p, W)[i]` (10_state.md rule R30; 90_conflicts.md C4). -/
def regTable {w : Nat} (p : BitVec w) (i : Byte) : BitVec w := fwdEntry p i

end Sys2Proof.Machine
end

