-- ==== Sys2Proof/Machine/Evaluator.lean ====
section
/-! DEFINITION. The CRC Evaluator's commands (42_crc_evaluator.md rule R140), step by step with the document's step
numbers. -/

namespace Sys2Proof.Machine

/-- The checks of rule R140 in its order: the registry key (step 1, rule R141), the size (20_memory.md rule R57), the
buffer (rule R52). What passes them is the buffer's bytes. -/
def evalChecks (w : Nat) (s : State) : Except Cause (List Byte) :=
  if !registryHas (s.operand w .poly) then .error .unsupportedPoly
  else if !s.bufferInRange then .error .sizeRange
  else
    match s.buffer with
    | none => .error .bufferAccess
    | some bytes => .ok bytes

/-- Step 2, the zero sentinel: a zero incoming CRC is replaced by a nonzero INIT (rule R142). -/
def seedCrc {w : Nat} (crc init : BitVec w) : BitVec w := if crc = 0 ∧ init ≠ 0 then init else crc

/-- Step 4 for one byte: `crc = T[(crc ^ b) & 0xFF] ^ (crc >> 8)`, the byte reflected first if IR is set (rule R143).
The table index is the low eight bits. -/
def foldByte {w : Nat} (p : BitVec w) (ir : Bool) (crc : BitVec w) (byte : Byte) : BitVec w :=
  let b := if ir then rev byte else byte
  regTable p ((crc ^^^ b.setWidth w).setWidth 8) ^^^ (crc >>> 8)

/-- Steps 3 and 4: the register after XIN and the whole buffer (rule R143). -/
def foldBuffer {w : Nat} (p : BitVec w) (ir : Bool) (crc xin : BitVec w) (bytes : List Byte) : BitVec w :=
  bytes.foldl (foldByte p ir) (crc ^^^ xin)

/-- Steps 5 and 6: reflect the whole register if RR is set, then XOR with XOUT (rules R144, R145). -/
def finishCrc {w : Nat} (rr : Bool) (crc xout : BitVec w) : BitVec w := (if rr then rev crc else crc) ^^^ xout

/-- The value of an evaluation of width `w` over `bytes` (rule R140, steps 2 to 6). -/
def evalValue (w : Nat) (ir rr : Bool) (s : State) (bytes : List Byte) : BitVec w :=
  finishCrc rr
    (foldBuffer (s.operand w .poly) ir (seedCrc (s.operand w .crc) (s.operand w .init)) (s.operand w .xin) bytes)
    (s.operand w .xout)

/-- The EVAL of command word `c` (rule R140): its fault, or RESULT written with the value zero-extended. -/
def runEval (w : Nat) (ir rr : Bool) (c : Word) (s : State) : State :=
  match evalChecks w s with
  | .error k => s.takeFault k c
  | .ok bytes => (s.setResult ((evalValue w ir rr s bytes).setWidth 32)).nextDraw

/-- `eval.8` (rule R140, W = 8): the registry has no 8-bit key, so it always faults (rule R141). -/
def execEval8 (ir rr : Bool) (s : State) : Host.Outcome State Fault Refusal :=
  issue s (runEval 8 ir rr (encode (.eval8 ir rr)))

/-- `eval.16` (rule R140, W = 16). -/
def execEval16 (ir rr : Bool) (s : State) : Host.Outcome State Fault Refusal :=
  issue s (runEval 16 ir rr (encode (.eval16 ir rr)))

/-- `eval.32` (rule R140, W = 32). -/
def execEval32 (ir rr : Bool) (s : State) : Host.Outcome State Fault Refusal :=
  issue s (runEval 32 ir rr (encode (.eval32 ir rr)))

end Sys2Proof.Machine
end

