-- ==== Sys2Proof/Machine/Reflector.lean ====
section
/-! DEFINITION. The Bit Reflector's commands (40_bit_reflector.md rule R101). -/

namespace Sys2Proof.Machine

/-- `x[RESULT] <- zext_32(rev_W(x[VAL][W-1:0]))` (rule R101). -/
def runRev (w : Nat) (s : State) : State := s.setResult ((rev (s.operand w .val)).setWidth 32)

/-- `rev.8` (rule R101, W = 8). -/
def execRev8 (s : State) : Host.Outcome State Fault Refusal := issue s (runRev 8)

/-- `rev.16` (rule R101, W = 16). -/
def execRev16 (s : State) : Host.Outcome State Fault Refusal := issue s (runRev 16)

/-- `rev.32` (rule R101, W = 32). -/
def execRev32 (s : State) : Host.Outcome State Fault Refusal := issue s (runRev 32)

end Sys2Proof.Machine
end

