-- ==== Sys2Proof/Machine/TableBuilder.lean ====
section
/-! DEFINITION. The Table Builder's commands (41_table_builder.md rule R120). -/

namespace Sys2Proof.Machine

/-- M = 0: `TBUF[i] <- zext_32(FWD_TABLE(x[POLY][W-1:0], W)[i])` for all i (rules R120, R121). -/
def runTbuildF (w : Nat) (s : State) : State :=
  s.setTable fun i => (fwdEntry (s.operand w .poly) i).setWidth 32

/-- M = 1: `TBUF[i] <- zext_32(REF_TABLE(x[POLY][W-1:0], W)[i])` for all i (rules R120, R122). -/
def runTbuildR (w : Nat) (s : State) : State :=
  s.setTable fun i => (refEntry (s.operand w .poly) i).setWidth 32

/-- `tbuild.f.8` (rules R120, R121, W = 8). -/
def execTbuildF8 (s : State) : Host.Outcome State Fault Refusal := issue s (runTbuildF 8)

/-- `tbuild.f.16` (rules R120, R121, W = 16). -/
def execTbuildF16 (s : State) : Host.Outcome State Fault Refusal := issue s (runTbuildF 16)

/-- `tbuild.f.32` (rules R120, R121, W = 32). -/
def execTbuildF32 (s : State) : Host.Outcome State Fault Refusal := issue s (runTbuildF 32)

/-- `tbuild.r.8` (rules R120, R122, W = 8). -/
def execTbuildR8 (s : State) : Host.Outcome State Fault Refusal := issue s (runTbuildR 8)

/-- `tbuild.r.16` (rules R120, R122, W = 16). -/
def execTbuildR16 (s : State) : Host.Outcome State Fault Refusal := issue s (runTbuildR 16)

/-- `tbuild.r.32` (rules R120, R122, W = 32). -/
def execTbuildR32 (s : State) : Host.Outcome State Fault Refusal := issue s (runTbuildR 32)

end Sys2Proof.Machine
end

