-- ==== Sys2Proof/Machine/WidthFault.lean ====
section
/-! DEFINITION. The commands whose BW is none of 1, 2, 4: the last check of 30_encoding.md rule R73 raises
UNSUPPORTED_WIDTH for each (60_exceptions.md rule R201, cause 2). -/

namespace Sys2Proof.Machine

/-- The UNSUPPORTED_WIDTH fault of command word `c` (30_encoding.md rule R73, 60_exceptions.md rule R203). -/
def widthFault (c : Word) (s : State) : Host.Outcome State Fault Refusal :=
  issue s fun s => s.takeFault .unsupportedWidth c

/-- `rev.bw0` (rule R73, BW = 0). -/
def execRevBw0 (s : State) : Host.Outcome State Fault Refusal :=
  widthFault (encode .revBw0) s

/-- `rev.bw3` (rule R73, BW = 3). -/
def execRevBw3 (s : State) : Host.Outcome State Fault Refusal :=
  widthFault (encode .revBw3) s

/-- `rev.bw5` (rule R73, BW = 5). -/
def execRevBw5 (s : State) : Host.Outcome State Fault Refusal :=
  widthFault (encode .revBw5) s

/-- `rev.bw6` (rule R73, BW = 6). -/
def execRevBw6 (s : State) : Host.Outcome State Fault Refusal :=
  widthFault (encode .revBw6) s

/-- `rev.bw7` (rule R73, BW = 7). -/
def execRevBw7 (s : State) : Host.Outcome State Fault Refusal :=
  widthFault (encode .revBw7) s

/-- `tbuild.bw0` (rule R73, BW = 0). -/
def execTbuildBw0 (m : Bool) (s : State) : Host.Outcome State Fault Refusal :=
  widthFault (encode (.tbuildBw0 m)) s

/-- `tbuild.bw3` (rule R73, BW = 3). -/
def execTbuildBw3 (m : Bool) (s : State) : Host.Outcome State Fault Refusal :=
  widthFault (encode (.tbuildBw3 m)) s

/-- `tbuild.bw5` (rule R73, BW = 5). -/
def execTbuildBw5 (m : Bool) (s : State) : Host.Outcome State Fault Refusal :=
  widthFault (encode (.tbuildBw5 m)) s

/-- `tbuild.bw6` (rule R73, BW = 6). -/
def execTbuildBw6 (m : Bool) (s : State) : Host.Outcome State Fault Refusal :=
  widthFault (encode (.tbuildBw6 m)) s

/-- `tbuild.bw7` (rule R73, BW = 7). -/
def execTbuildBw7 (m : Bool) (s : State) : Host.Outcome State Fault Refusal :=
  widthFault (encode (.tbuildBw7 m)) s

/-- `eval.bw0` (rule R73, BW = 0). -/
def execEvalBw0 (ir rr : Bool) (s : State) : Host.Outcome State Fault Refusal :=
  widthFault (encode (.evalBw0 ir rr)) s

/-- `eval.bw3` (rule R73, BW = 3). -/
def execEvalBw3 (ir rr : Bool) (s : State) : Host.Outcome State Fault Refusal :=
  widthFault (encode (.evalBw3 ir rr)) s

/-- `eval.bw5` (rule R73, BW = 5). -/
def execEvalBw5 (ir rr : Bool) (s : State) : Host.Outcome State Fault Refusal :=
  widthFault (encode (.evalBw5 ir rr)) s

/-- `eval.bw6` (rule R73, BW = 6). -/
def execEvalBw6 (ir rr : Bool) (s : State) : Host.Outcome State Fault Refusal :=
  widthFault (encode (.evalBw6 ir rr)) s

/-- `eval.bw7` (rule R73, BW = 7). -/
def execEvalBw7 (ir rr : Bool) (s : State) : Host.Outcome State Fault Refusal :=
  widthFault (encode (.evalBw7 ir rr)) s

end Sys2Proof.Machine
end

