-- ==== Sys2Proof/Machine/Dispatch.lean ====
section
/-! DEFINITION. One arm per command, each one call of its meaning. -/

namespace Sys2Proof.Machine

/-- The effect of a command on the machine (43_host_interface.md rule R171, `execute`). -/
def exec (i : Instr) (s : State) : Host.Outcome State Fault Refusal :=
  match i with
  | .rev8 => Sys2Proof.Machine.execRev8 s
  | .rev16 => Sys2Proof.Machine.execRev16 s
  | .rev32 => Sys2Proof.Machine.execRev32 s
  | .tbuildF8 => Sys2Proof.Machine.execTbuildF8 s
  | .tbuildF16 => Sys2Proof.Machine.execTbuildF16 s
  | .tbuildF32 => Sys2Proof.Machine.execTbuildF32 s
  | .tbuildR8 => Sys2Proof.Machine.execTbuildR8 s
  | .tbuildR16 => Sys2Proof.Machine.execTbuildR16 s
  | .tbuildR32 => Sys2Proof.Machine.execTbuildR32 s
  | .eval8 ir rr => Sys2Proof.Machine.execEval8 ir rr s
  | .eval16 ir rr => Sys2Proof.Machine.execEval16 ir rr s
  | .eval32 ir rr => Sys2Proof.Machine.execEval32 ir rr s
  | .revBw0 => Sys2Proof.Machine.execRevBw0 s
  | .revBw3 => Sys2Proof.Machine.execRevBw3 s
  | .revBw5 => Sys2Proof.Machine.execRevBw5 s
  | .revBw6 => Sys2Proof.Machine.execRevBw6 s
  | .revBw7 => Sys2Proof.Machine.execRevBw7 s
  | .tbuildBw0 m => Sys2Proof.Machine.execTbuildBw0 m s
  | .tbuildBw3 m => Sys2Proof.Machine.execTbuildBw3 m s
  | .tbuildBw5 m => Sys2Proof.Machine.execTbuildBw5 m s
  | .tbuildBw6 m => Sys2Proof.Machine.execTbuildBw6 m s
  | .tbuildBw7 m => Sys2Proof.Machine.execTbuildBw7 m s
  | .evalBw0 ir rr => Sys2Proof.Machine.execEvalBw0 ir rr s
  | .evalBw3 ir rr => Sys2Proof.Machine.execEvalBw3 ir rr s
  | .evalBw5 ir rr => Sys2Proof.Machine.execEvalBw5 ir rr s
  | .evalBw6 ir rr => Sys2Proof.Machine.execEvalBw6 ir rr s
  | .evalBw7 ir rr => Sys2Proof.Machine.execEvalBw7 ir rr s

end Sys2Proof.Machine
end

