-- ==== Sys2Proof/Machine/HostPort.lean ====
section
/-! DEFINITION. The host interface: the register map (10_state.md rule R21), the host transactions
(43_host_interface.md rules R170 to R173) with what they refuse (20_memory.md rules R55, R56), and the acts of the
outside world on data memory. -/

namespace Sys2Proof.Machine

/-- The offset of a register from BLOCK_BASE (10_state.md rule R21). -/
def regOffset : HostReg → Nat
  | .cmd => 0x000
  | .status => 0x004
  | .fcmd => 0x008
  | .result => 0x00C
  | .arg .poly => 0x010
  | .arg .crc => 0x014
  | .arg .init => 0x018
  | .arg .xin => 0x01C
  | .arg .xout => 0x020
  | .arg .addr => 0x024
  | .arg .size => 0x028
  | .arg .val => 0x02C
  | .tbuf i => 0x400 + 4 * i.toNat

/-- The registers below 0x400, by offset (rule R21). -/
def lowRegs : List (Nat × HostReg) :=
  [(0x000, .cmd), (0x004, .status), (0x008, .fcmd), (0x00C, .result),
   (0x010, .arg .poly), (0x014, .arg .crc), (0x018, .arg .init), (0x01C, .arg .xin),
   (0x020, .arg .xout), (0x024, .arg .addr), (0x028, .arg .size), (0x02C, .arg .val)]

/-- The register at an offset, nothing where the map has none (rule R21): 0x030 to 0x3FC and 0x800 and above
(20_memory.md rule R56), and an offset between registers. -/
def regAt (offset : Nat) : Option HostReg :=
  if 0x400 ≤ offset ∧ offset < 0x800 then
    if offset % 4 = 0 then some (.tbuf (BitVec.ofNat 8 ((offset - 0x400) / 4))) else none
  else lowRegs.lookup offset

/-- The register a host access reaches, or why it is refused: a width that is not 32 bits, an address below the block,
an offset that is no multiple of 4 (20_memory.md rule R55), an offset with no register (rule R56). Where several hold,
the first in this order is named; DESIGN CHOICE, log entry 6. -/
def locate (blockBase addr : Nat) (size : AccessSize) : Except Refusal HostReg :=
  if size ≠ .word then .error .subWordAccess
  else if addr < blockBase then .error .unmappedAccess
  else if (addr - blockBase) % 4 ≠ 0 then .error .misalignedAccess
  else
    match regAt (addr - blockBase) with
    | none => .error .unmappedAccess
    | some r => .ok r

/-- `wr CMD, c` (43_host_interface.md rule R171): run the command the word decodes to, or raise ILLEGAL_COMMAND. -/
def issueWord (c : Word) (s : State) : Host.Outcome State Fault Refusal :=
  match decode c with
  | .ok i => exec i s
  | .error _ => execIllegal c s

/-- A host write that reached a register (rules R170, R171, R173): a read-only register ignores it. -/
def writeReg (r : HostReg) (v : Word) (s : State) : Host.Outcome State Fault Refusal :=
  match r with
  | .cmd => issueWord v s
  | .arg a => .next (s.setArg a v)
  | .status => .next s
  | .fcmd => .next s
  | .result => .next s
  | .tbuf _ => .next s

/-- The value a host read of a register returns, nothing for a TBUF word not written since reset (rule R172,
10_state.md rule R34). CMD reads 0 (10_state.md rule R28). -/
def readReg (r : HostReg) (s : State) : Option Word :=
  match r with
  | .cmd => some 0
  | .status => some s.status
  | .fcmd => some s.fcmd
  | .result => some s.result
  | .arg a => some (s.args.get a)
  | .tbuf i => s.tbufWord i

/-- A host read that reached a register (rule R172): its value reaches the host and no state of the block changes; a
TBUF word with no value stops the run (10_state.md rule R34). -/
def hostRead (r : HostReg) (s : State) : Host.Outcome State Fault Refusal :=
  match readReg r s with
  | some v => .next (s.logRead v)
  | none => .fault .unwrittenTableWord

/-- What one item of the outside world does to the machine. -/
def perform (t : Transaction) (s : State) : Host.Outcome State Fault Refusal :=
  match t with
  | .write addr size v =>
    match locate s.blockBase addr size with
    | .error e => .refused e
    | .ok r => writeReg r v s
  | .read addr size =>
    match locate s.blockBase addr size with
    | .error e => .refused e
    | .ok r => hostRead r s
  | .reset => .next s.resetBlock
  | .storeByte a b => .next (s.setMem (s.mem.write a.toNat b))
  | .hideByte a => .next (s.setMem (s.mem.hide a.toNat))
  | .contend addrs => .next (s.setContended addrs)

/-- The next transaction, taken from those still to come; with none the block is idle, which "has no architectural
effect" (60_exceptions.md rule R215). -/
def performNext (s : State) : Host.Outcome State Fault Refusal :=
  match s.pending with
  | [] => .next s
  | t :: rest => perform t (s.setPending rest)

/-- `wr r, v` at this base address (30_encoding.md rule R77). -/
def wr (blockBase : Nat) (r : HostReg) (v : Word) : Transaction := .write (blockBase + regOffset r) .word v

/-- `rd r` at this base address (30_encoding.md rule R77). -/
def rd (blockBase : Nat) (r : HostReg) : Transaction := .read (blockBase + regOffset r) .word

/-- The state in which the host is about to write word `c` to CMD. -/
def State.withCommand (s : State) (c : Word) : State := s.setPending (wr s.blockBase .cmd c :: s.pending)

end Sys2Proof.Machine
end

