-- ==== Sys2Proof/Laws/Bits.lean ====
section
/-! SUPPORT. The reflector's loop is the library's reversal, whose lemmas later proofs use. -/

namespace Sys2Proof.Machine

/-- After `n` turns the loop has placed exactly the bits 0 to n-1. -/
theorem revLoop_getLsbD {w : Nat} (v : BitVec w) (n : Nat) (hn : n ≤ w) (j : Nat) :
    (revLoop v n).getLsbD j = (decide (j < w) && decide (w - 1 - j < n) && v.getLsbD (w - 1 - j)) := by
  induction n with
  | zero => simp [revLoop]
  | succ n ih =>
    have ih := ih (by omega)
    rw [revLoop]
    by_cases hj : j < w
    · by_cases he : w - 1 - j = n
      · have hj' : w - 1 - n = j := by omega
        cases hv : v.getLsbD n <;> simp [BitVec.getLsbD_twoPow, ih, hj, he, hv, hj', -BitVec.getLsbD_eq_getElem]
      · have hj' : w - 1 - n ≠ j := by omega
        have hlt : (w - 1 - j < n + 1) ↔ (w - 1 - j < n) := by omega
        cases hv : v.getLsbD n <;>
          simp [BitVec.getLsbD_twoPow, ih, hj, hj', hlt, -BitVec.getLsbD_eq_getElem]
    · simp [BitVec.getLsbD_of_ge _ j (Nat.le_of_not_lt hj), hj]

/-- `rev_W` is the reversal of the bits (00_scope.md rule R10). -/
theorem rev_eq_reverse {w : Nat} (v : BitVec w) : rev v = v.reverse := by
  apply BitVec.eq_of_getLsbD_eq
  intro i hi
  rw [rev, revLoop_getLsbD v w (Nat.le_refl w), BitVec.getLsbD_reverse, BitVec.getMsbD]
  have : w - 1 - i < w := by omega
  simp [hi, this]

end Sys2Proof.Machine
end

