-- ==== Sys2Proof/Laws/Memory.lean ====
section
/-! SUPPORT. Data memory: read after write, and every operation keeps the canonical form. -/

namespace Sys2Proof.Machine

theorem memory_read_write_same (m : Memory) (a : Nat) (b : Byte) : (m.write a b).read a = some b := by
  induction m with
  | nil => simp [Memory.write, Memory.read]
  | cons c m ih =>
    obtain ⟨k, v⟩ := c
    simp only [Memory.write]
    split
    · simp [Memory.read]
    · split
      · simp [Memory.read]
      · rename_i h
        simp [Memory.read, Ne.symm h, ih]

theorem memory_read_write_ne (m : Memory) {a x : Nat} (b : Byte) (h : x ≠ a) : (m.write a b).read x = m.read x := by
  induction m with
  | nil => simp [Memory.write, Memory.read, Ne.symm h]
  | cons c m ih =>
    obtain ⟨k, v⟩ := c
    simp only [Memory.write]
    split
    · simp [Memory.read, Ne.symm h]
    · split
      · rename_i hk
        subst hk
        simp [Memory.read, Ne.symm h]
      · simp [Memory.read, ih]

theorem memory_read_hide_same (m : Memory) (a : Nat) : (m.hide a).read a = none := by
  induction m with
  | nil => rfl
  | cons c m ih =>
    obtain ⟨k, v⟩ := c
    by_cases hk : k = a
    · simpa [Memory.hide, hk] using ih
    · simpa [Memory.hide, hk, Memory.read] using ih

theorem memory_read_hide_ne (m : Memory) {a x : Nat} (h : x ≠ a) : (m.hide a).read x = m.read x := by
  induction m with
  | nil => rfl
  | cons c m ih =>
    obtain ⟨k, v⟩ := c
    have ih' : Memory.read (m.filter fun c => !decide (c.1 = a)) x = Memory.read m x := by
      simpa [Memory.hide] using ih
    by_cases hk : k = a
    · subst hk
      simp [Memory.hide, Memory.read, Ne.symm h, ih']
    · simp [Memory.hide, hk, Memory.read, ih']

/-- The keys of a written memory are the old ones and the written address. -/
theorem memory_mem_write {m : Memory} {a : Nat} {b : Byte} {c : Host.Cell} (h : c ∈ m.write a b) :
    c = (a, b) ∨ c ∈ m := by
  induction m with
  | nil => simpa [Memory.write] using h
  | cons d m ih =>
    obtain ⟨k, v⟩ := d
    simp only [Memory.write] at h
    split at h
    · simpa using h
    · split at h
      · rcases List.mem_cons.1 h with h | h
        · exact .inl h
        · exact .inr (List.mem_cons_of_mem _ h)
      · rcases List.mem_cons.1 h with h | h
        · exact .inr (h ▸ List.mem_cons_self)
        · exact (ih h).imp_right (List.mem_cons_of_mem _)

theorem memory_write_wf {m : Memory} (hm : m.wf) {a : Nat} (ha : a < 2 ^ 32) (b : Byte) : (m.write a b).wf := by
  refine ⟨?_, fun c hc => ?_⟩
  · have hp := hm.1
    clear hm
    induction m with
    | nil => simp [Memory.write]
    | cons d m ih =>
      obtain ⟨k, v⟩ := d
      rw [List.pairwise_cons] at hp
      simp only [Memory.write]
      split
      · rename_i hlt
        refine List.pairwise_cons.2 ⟨fun y hy => ?_, List.pairwise_cons.2 hp⟩
        rcases List.mem_cons.1 hy with rfl | hy
        · exact hlt
        · exact Nat.lt_trans hlt (hp.1 y hy)
      · split
        · rename_i he
          subst he
          exact List.pairwise_cons.2 hp
        · refine List.pairwise_cons.2 ⟨fun y hy => ?_, ih hp.2⟩
          rcases memory_mem_write hy with rfl | hy
          · simp only
            omega
          · exact hp.1 y hy
  · rcases memory_mem_write hc with rfl | hc
    · exact ha
    · exact hm.2 c hc

theorem memory_hide_wf {m : Memory} (hm : m.wf) (a : Nat) : (m.hide a).wf :=
  ⟨hm.1.filter _, fun c hc => hm.2 c (List.mem_of_mem_filter hc)⟩

theorem memory_reset_wf : State.reset.mem.wf := by decide

end Sys2Proof.Machine
end

