-- ==== Sys2Proof/Laws/State.lean ====
section
/-! SUPPORT. One lemma per field per update of State, each true by unfolding the update once, so that no later proof
unfolds one. -/

namespace Sys2Proof.Machine

@[simp] theorem setArg_args (s : State) (r : ArgReg) (v : Word) : (s.setArg r v).args = s.args.set r v := rfl
@[simp] theorem setArg_result (s : State) (r : ArgReg) (v : Word) : (s.setArg r v).result = s.result := rfl
@[simp] theorem setArg_status (s : State) (r : ArgReg) (v : Word) : (s.setArg r v).status = s.status := rfl
@[simp] theorem setArg_fcmd (s : State) (r : ArgReg) (v : Word) : (s.setArg r v).fcmd = s.fcmd := rfl
@[simp] theorem setArg_tbuf (s : State) (r : ArgReg) (v : Word) : (s.setArg r v).tbuf = s.tbuf := rfl
@[simp] theorem setArg_mem (s : State) (r : ArgReg) (v : Word) : (s.setArg r v).mem = s.mem := rfl
@[simp] theorem setArg_blockBase (s : State) (r : ArgReg) (v : Word) : (s.setArg r v).blockBase = s.blockBase := rfl
@[simp] theorem setArg_pending (s : State) (r : ArgReg) (v : Word) : (s.setArg r v).pending = s.pending := rfl
@[simp] theorem setArg_reads (s : State) (r : ArgReg) (v : Word) : (s.setArg r v).reads = s.reads := rfl
@[simp] theorem setArg_contended (s : State) (r : ArgReg) (v : Word) : (s.setArg r v).contended = s.contended := rfl
@[simp] theorem setArg_draws (s : State) (r : ArgReg) (v : Word) : (s.setArg r v).draws = s.draws := rfl

@[simp] theorem setResult_args (s : State) (v : Word) : (s.setResult v).args = s.args := rfl
@[simp] theorem setResult_result (s : State) (v : Word) : (s.setResult v).result = v := rfl
@[simp] theorem setResult_status (s : State) (v : Word) : (s.setResult v).status = s.status := rfl
@[simp] theorem setResult_fcmd (s : State) (v : Word) : (s.setResult v).fcmd = s.fcmd := rfl
@[simp] theorem setResult_tbuf (s : State) (v : Word) : (s.setResult v).tbuf = s.tbuf := rfl
@[simp] theorem setResult_mem (s : State) (v : Word) : (s.setResult v).mem = s.mem := rfl
@[simp] theorem setResult_blockBase (s : State) (v : Word) : (s.setResult v).blockBase = s.blockBase := rfl
@[simp] theorem setResult_pending (s : State) (v : Word) : (s.setResult v).pending = s.pending := rfl
@[simp] theorem setResult_reads (s : State) (v : Word) : (s.setResult v).reads = s.reads := rfl
@[simp] theorem setResult_contended (s : State) (v : Word) : (s.setResult v).contended = s.contended := rfl
@[simp] theorem setResult_draws (s : State) (v : Word) : (s.setResult v).draws = s.draws := rfl

@[simp] theorem setTable_args (s : State) (entry : Byte → Word) : (s.setTable entry).args = s.args := rfl
@[simp] theorem setTable_result (s : State) (entry : Byte → Word) : (s.setTable entry).result = s.result := rfl
@[simp] theorem setTable_status (s : State) (entry : Byte → Word) : (s.setTable entry).status = s.status := rfl
@[simp] theorem setTable_fcmd (s : State) (entry : Byte → Word) : (s.setTable entry).fcmd = s.fcmd := rfl
@[simp] theorem setTable_tbuf (s : State) (entry : Byte → Word) : (s.setTable entry).tbuf = tableOf entry := rfl
@[simp] theorem setTable_mem (s : State) (entry : Byte → Word) : (s.setTable entry).mem = s.mem := rfl
@[simp] theorem setTable_blockBase (s : State) (entry : Byte → Word) : (s.setTable entry).blockBase = s.blockBase := rfl
@[simp] theorem setTable_pending (s : State) (entry : Byte → Word) : (s.setTable entry).pending = s.pending := rfl
@[simp] theorem setTable_reads (s : State) (entry : Byte → Word) : (s.setTable entry).reads = s.reads := rfl
@[simp] theorem setTable_contended (s : State) (entry : Byte → Word) : (s.setTable entry).contended = s.contended := rfl
@[simp] theorem setTable_draws (s : State) (entry : Byte → Word) : (s.setTable entry).draws = s.draws := rfl

@[simp] theorem nextDraw_args (s : State) : (s.nextDraw).args = s.args := rfl
@[simp] theorem nextDraw_result (s : State) : (s.nextDraw).result = s.result := rfl
@[simp] theorem nextDraw_status (s : State) : (s.nextDraw).status = s.status := rfl
@[simp] theorem nextDraw_fcmd (s : State) : (s.nextDraw).fcmd = s.fcmd := rfl
@[simp] theorem nextDraw_tbuf (s : State) : (s.nextDraw).tbuf = s.tbuf := rfl
@[simp] theorem nextDraw_mem (s : State) : (s.nextDraw).mem = s.mem := rfl
@[simp] theorem nextDraw_blockBase (s : State) : (s.nextDraw).blockBase = s.blockBase := rfl
@[simp] theorem nextDraw_pending (s : State) : (s.nextDraw).pending = s.pending := rfl
@[simp] theorem nextDraw_reads (s : State) : (s.nextDraw).reads = s.reads := rfl
@[simp] theorem nextDraw_contended (s : State) : (s.nextDraw).contended = s.contended := rfl
@[simp] theorem nextDraw_draws (s : State) : (s.nextDraw).draws = s.draws + 1 := rfl

@[simp] theorem logRead_args (s : State) (v : Word) : (s.logRead v).args = s.args := rfl
@[simp] theorem logRead_result (s : State) (v : Word) : (s.logRead v).result = s.result := rfl
@[simp] theorem logRead_status (s : State) (v : Word) : (s.logRead v).status = s.status := rfl
@[simp] theorem logRead_fcmd (s : State) (v : Word) : (s.logRead v).fcmd = s.fcmd := rfl
@[simp] theorem logRead_tbuf (s : State) (v : Word) : (s.logRead v).tbuf = s.tbuf := rfl
@[simp] theorem logRead_mem (s : State) (v : Word) : (s.logRead v).mem = s.mem := rfl
@[simp] theorem logRead_blockBase (s : State) (v : Word) : (s.logRead v).blockBase = s.blockBase := rfl
@[simp] theorem logRead_pending (s : State) (v : Word) : (s.logRead v).pending = s.pending := rfl
@[simp] theorem logRead_reads (s : State) (v : Word) : (s.logRead v).reads = s.reads ++ [v] := rfl
@[simp] theorem logRead_contended (s : State) (v : Word) : (s.logRead v).contended = s.contended := rfl
@[simp] theorem logRead_draws (s : State) (v : Word) : (s.logRead v).draws = s.draws := rfl

@[simp] theorem setPending_args (s : State) (ts : List Transaction) : (s.setPending ts).args = s.args := rfl
@[simp] theorem setPending_result (s : State) (ts : List Transaction) : (s.setPending ts).result = s.result := rfl
@[simp] theorem setPending_status (s : State) (ts : List Transaction) : (s.setPending ts).status = s.status := rfl
@[simp] theorem setPending_fcmd (s : State) (ts : List Transaction) : (s.setPending ts).fcmd = s.fcmd := rfl
@[simp] theorem setPending_tbuf (s : State) (ts : List Transaction) : (s.setPending ts).tbuf = s.tbuf := rfl
@[simp] theorem setPending_mem (s : State) (ts : List Transaction) : (s.setPending ts).mem = s.mem := rfl
@[simp] theorem setPending_blockBase (s : State) (ts : List Transaction) : (s.setPending ts).blockBase = s.blockBase := rfl
@[simp] theorem setPending_pending (s : State) (ts : List Transaction) : (s.setPending ts).pending = ts := rfl
@[simp] theorem setPending_reads (s : State) (ts : List Transaction) : (s.setPending ts).reads = s.reads := rfl
@[simp] theorem setPending_contended (s : State) (ts : List Transaction) : (s.setPending ts).contended = s.contended := rfl
@[simp] theorem setPending_draws (s : State) (ts : List Transaction) : (s.setPending ts).draws = s.draws := rfl

@[simp] theorem setMem_args (s : State) (m : Memory) : (s.setMem m).args = s.args := rfl
@[simp] theorem setMem_result (s : State) (m : Memory) : (s.setMem m).result = s.result := rfl
@[simp] theorem setMem_status (s : State) (m : Memory) : (s.setMem m).status = s.status := rfl
@[simp] theorem setMem_fcmd (s : State) (m : Memory) : (s.setMem m).fcmd = s.fcmd := rfl
@[simp] theorem setMem_tbuf (s : State) (m : Memory) : (s.setMem m).tbuf = s.tbuf := rfl
@[simp] theorem setMem_mem (s : State) (m : Memory) : (s.setMem m).mem = m := rfl
@[simp] theorem setMem_blockBase (s : State) (m : Memory) : (s.setMem m).blockBase = s.blockBase := rfl
@[simp] theorem setMem_pending (s : State) (m : Memory) : (s.setMem m).pending = s.pending := rfl
@[simp] theorem setMem_reads (s : State) (m : Memory) : (s.setMem m).reads = s.reads := rfl
@[simp] theorem setMem_contended (s : State) (m : Memory) : (s.setMem m).contended = s.contended := rfl
@[simp] theorem setMem_draws (s : State) (m : Memory) : (s.setMem m).draws = s.draws := rfl

@[simp] theorem setContended_args (s : State) (addrs : List Nat) : (s.setContended addrs).args = s.args := rfl
@[simp] theorem setContended_result (s : State) (addrs : List Nat) : (s.setContended addrs).result = s.result := rfl
@[simp] theorem setContended_status (s : State) (addrs : List Nat) : (s.setContended addrs).status = s.status := rfl
@[simp] theorem setContended_fcmd (s : State) (addrs : List Nat) : (s.setContended addrs).fcmd = s.fcmd := rfl
@[simp] theorem setContended_tbuf (s : State) (addrs : List Nat) : (s.setContended addrs).tbuf = s.tbuf := rfl
@[simp] theorem setContended_mem (s : State) (addrs : List Nat) : (s.setContended addrs).mem = s.mem := rfl
@[simp] theorem setContended_blockBase (s : State) (addrs : List Nat) : (s.setContended addrs).blockBase = s.blockBase := rfl
@[simp] theorem setContended_pending (s : State) (addrs : List Nat) : (s.setContended addrs).pending = s.pending := rfl
@[simp] theorem setContended_reads (s : State) (addrs : List Nat) : (s.setContended addrs).reads = s.reads := rfl
@[simp] theorem setContended_contended (s : State) (addrs : List Nat) : (s.setContended addrs).contended = addrs := rfl
@[simp] theorem setContended_draws (s : State) (addrs : List Nat) : (s.setContended addrs).draws = s.draws := rfl

@[simp] theorem takeFault_args (s : State) (k : Cause) (c : Word) : (s.takeFault k c).args = s.args := rfl
@[simp] theorem takeFault_result (s : State) (k : Cause) (c : Word) : (s.takeFault k c).result = s.result := rfl
@[simp] theorem takeFault_status (s : State) (k : Cause) (c : Word) : (s.takeFault k c).status = k.statusWord := rfl
@[simp] theorem takeFault_fcmd (s : State) (k : Cause) (c : Word) : (s.takeFault k c).fcmd = c := rfl
@[simp] theorem takeFault_tbuf (s : State) (k : Cause) (c : Word) : (s.takeFault k c).tbuf = s.tbuf := rfl
@[simp] theorem takeFault_mem (s : State) (k : Cause) (c : Word) : (s.takeFault k c).mem = s.mem := rfl
@[simp] theorem takeFault_blockBase (s : State) (k : Cause) (c : Word) : (s.takeFault k c).blockBase = s.blockBase := rfl
@[simp] theorem takeFault_pending (s : State) (k : Cause) (c : Word) : (s.takeFault k c).pending = s.pending := rfl
@[simp] theorem takeFault_reads (s : State) (k : Cause) (c : Word) : (s.takeFault k c).reads = s.reads := rfl
@[simp] theorem takeFault_contended (s : State) (k : Cause) (c : Word) : (s.takeFault k c).contended = s.contended := rfl
@[simp] theorem takeFault_draws (s : State) (k : Cause) (c : Word) : (s.takeFault k c).draws = s.draws := rfl

@[simp] theorem resetBlock_args (s : State) : (s.resetBlock).args = ArgRegs.zero := rfl
@[simp] theorem resetBlock_result (s : State) : (s.resetBlock).result = 0 := rfl
@[simp] theorem resetBlock_status (s : State) : (s.resetBlock).status = 0 := rfl
@[simp] theorem resetBlock_fcmd (s : State) : (s.resetBlock).fcmd = 0 := rfl
@[simp] theorem resetBlock_tbuf (s : State) : (s.resetBlock).tbuf = Vector.replicate 256 none := rfl
@[simp] theorem resetBlock_mem (s : State) : (s.resetBlock).mem = s.mem := rfl
@[simp] theorem resetBlock_blockBase (s : State) : (s.resetBlock).blockBase = s.blockBase := rfl
@[simp] theorem resetBlock_pending (s : State) : (s.resetBlock).pending = s.pending := rfl
@[simp] theorem resetBlock_reads (s : State) : (s.resetBlock).reads = s.reads := rfl
@[simp] theorem resetBlock_contended (s : State) : (s.resetBlock).contended = s.contended := rfl
@[simp] theorem resetBlock_draws (s : State) : (s.resetBlock).draws = s.draws := rfl

/-! ### The fault flag and TBUF words after an update -/

@[simp] theorem setArg_faulted (s : State) (r : ArgReg) (v : Word) : (s.setArg r v).faulted = s.faulted := rfl
@[simp] theorem setArg_tbufWord (s : State) (r : ArgReg) (v : Word) (i : Byte) : (s.setArg r v).tbufWord i = s.tbufWord i := rfl
@[simp] theorem setResult_faulted (s : State) (v : Word) : (s.setResult v).faulted = s.faulted := rfl
@[simp] theorem setResult_tbufWord (s : State) (v : Word) (i : Byte) : (s.setResult v).tbufWord i = s.tbufWord i := rfl
@[simp] theorem setTable_faulted (s : State) (entry : Byte → Word) : (s.setTable entry).faulted = s.faulted := rfl
@[simp] theorem nextDraw_faulted (s : State) : (s.nextDraw).faulted = s.faulted := rfl
@[simp] theorem nextDraw_tbufWord (s : State) (i : Byte) : (s.nextDraw).tbufWord i = s.tbufWord i := rfl
@[simp] theorem logRead_faulted (s : State) (v : Word) : (s.logRead v).faulted = s.faulted := rfl
@[simp] theorem logRead_tbufWord (s : State) (v : Word) (i : Byte) : (s.logRead v).tbufWord i = s.tbufWord i := rfl
@[simp] theorem setPending_faulted (s : State) (ts : List Transaction) : (s.setPending ts).faulted = s.faulted := rfl
@[simp] theorem setPending_tbufWord (s : State) (ts : List Transaction) (i : Byte) : (s.setPending ts).tbufWord i = s.tbufWord i := rfl
@[simp] theorem setMem_faulted (s : State) (m : Memory) : (s.setMem m).faulted = s.faulted := rfl
@[simp] theorem setMem_tbufWord (s : State) (m : Memory) (i : Byte) : (s.setMem m).tbufWord i = s.tbufWord i := rfl
@[simp] theorem setContended_faulted (s : State) (addrs : List Nat) : (s.setContended addrs).faulted = s.faulted := rfl
@[simp] theorem setContended_tbufWord (s : State) (addrs : List Nat) (i : Byte) : (s.setContended addrs).tbufWord i = s.tbufWord i := rfl
@[simp] theorem takeFault_tbufWord (s : State) (k : Cause) (c : Word) (i : Byte) : (s.takeFault k c).tbufWord i = s.tbufWord i := rfl

@[simp] theorem takeFault_faulted (s : State) (k : Cause) (c : Word) : (s.takeFault k c).faulted = true := by
  show k.statusWord.getLsbD 0 = true
  cases k <;> decide

@[simp] theorem resetBlock_faulted (s : State) : s.resetBlock.faulted = false := by
  show (0 : Word).getLsbD 0 = false
  decide

/-- A built table holds the entry at every index. -/
@[simp] theorem setTable_tbufWord (s : State) (entry : Byte → Word) (i : Byte) :
    (s.setTable entry).tbufWord i = some (entry i) := by
  simp [State.tbufWord, State.setTable, tableOf]

@[simp] theorem resetBlock_tbufWord (s : State) (i : Byte) : s.resetBlock.tbufWord i = none := by
  simp [State.tbufWord]

/-! ### Argument registers -/

@[simp] theorem argRegs_get_set_same (g : ArgRegs) (r : ArgReg) (v : Word) : (g.set r v).get r = v := by
  cases r <;> rfl

theorem argRegs_get_set_ne (g : ArgRegs) {r q : ArgReg} (v : Word) (h : q ≠ r) : (g.set r v).get q = g.get q := by
  cases r <;> cases q <;> first | rfl | exact absurd rfl h

@[simp] theorem argRegs_zero_get (r : ArgReg) : ArgRegs.zero.get r = 0 := by
  cases r <;> rfl

/-- Argument registers with equal contents are equal. -/
theorem argRegs_ext_get {g h : ArgRegs} (e : ∀ r, g.get r = h.get r) : g = h := by
  cases g
  cases h
  exact ArgRegs.mk.injEq .. ▸ ⟨e .poly, e .crc, e .init, e .xin, e .xout, e .addr, e .size, e .val⟩

end Sys2Proof.Machine
end

