-- ==== Sys2Proof/Laws/Ops.lean ====
section
/-! SUPPORT. What the shared operations can do, said once: issuing a command, taking a fault, reading the buffer. -/

namespace Sys2Proof.Machine

/-- Issuing a command to a block that is not faulted runs it. -/
theorem issue_of_not_faulted {s : State} (h : s.faulted = false) (run : State → State) : issue s run = .next (run s) := by
  simp [issue, h]

/-- Issuing a command to a faulted block changes nothing (60_exceptions.md rule R205). -/
theorem issue_of_faulted {s : State} (h : s.faulted = true) (run : State → State) : issue s run = .next s := by
  simp [issue, h]

/-- Everything issuing can answer. -/
theorem issue_cases {s t : State} {run : State → State} (h : issue s run = .next t) :
    (s.faulted = true ∧ t = s) ∨ (s.faulted = false ∧ t = run s) := by
  cases hf : s.faulted
  · rw [issue_of_not_faulted hf] at h
    exact .inr ⟨rfl, by simpa using h.symm⟩
  · rw [issue_of_faulted hf] at h
    exact .inl ⟨rfl, by simpa using h.symm⟩

/-- The buffer read by induction on its length: the bytes read are those that `memRead` gives, in order. -/
theorem readBytes_eq_some_iff (s : State) (a n : Nat) (bytes : List Byte) :
    s.readBytes a n = some bytes ↔
      bytes.length = n ∧ ∀ k (h : k < bytes.length), s.memRead (a + k) = some bytes[k] := by
  induction n generalizing a bytes with
  | zero =>
    cases bytes <;> simp [State.readBytes]
  | succ n ih =>
    cases bytes with
    | nil =>
      simp only [State.readBytes]
      split <;> simp
    | cons b bytes =>
      have step : s.readBytes a (n + 1) = some (b :: bytes) ↔
          s.memRead a = some b ∧ s.readBytes (a + 1) n = some bytes := by
        simp only [State.readBytes]
        split
        · rename_i h
          simp [h]
        · rename_i c h
          simp [h, and_comm]
      rw [step, ih]
      constructor
      · rintro ⟨h0, hl, hk⟩
        refine ⟨by simp [hl], fun k h => ?_⟩
        cases k with
        | zero => simpa using h0
        | succ k =>
          have := hk k (by simpa using h)
          rw [show a + (k + 1) = a + 1 + k by omega]
          simpa using this
      · rintro ⟨hl, hk⟩
        refine ⟨hk 0 (by simp), by simpa using hl, fun k h => ?_⟩
        have := hk (k + 1) (by simpa using h)
        rw [show a + (k + 1) = a + 1 + k by omega] at this
        simpa using this

/-- The buffer has no value exactly when one of its bytes is not readable (20_memory.md rule R52). -/
theorem readBytes_eq_none_iff (s : State) (a n : Nat) :
    s.readBytes a n = none ↔ ∃ k, k < n ∧ s.memRead (a + k) = none := by
  induction n generalizing a with
  | zero => simp [State.readBytes]
  | succ n ih =>
    simp only [State.readBytes]
    split
    · rename_i h
      simp only [true_iff]
      exact ⟨0, by omega, by simpa using h⟩
    · rename_i b h
      rw [Option.map_eq_none_iff, ih]
      constructor
      · rintro ⟨k, hk, e⟩
        exact ⟨k + 1, by omega, by rw [show a + (k + 1) = a + 1 + k by omega]; exact e⟩
      · rintro ⟨k, hk, e⟩
        cases k with
        | zero => simp [h] at e
        | succ k => exact ⟨k, by omega, by rw [show a + 1 + k = a + (k + 1) by omega]; exact e⟩

/-- A byte reads as nothing exactly where it is not readable. -/
theorem memRead_eq_none_iff (s : State) (a : Nat) : s.memRead a = none ↔ s.mem.read a = none := by
  unfold State.memRead
  split
  · rename_i h
    simp [h]
  · rename_i b h
    split <;> simp [h]

/-- A byte that no other agent writes reads as data memory holds it. -/
theorem memRead_of_not_contended {s : State} {a : Nat} (h : a ∉ s.contended) : s.memRead a = s.mem.read a := by
  unfold State.memRead
  split <;> simp_all

/-- A readable byte that another agent writes reads as the free value. -/
theorem memRead_of_contended {s : State} {a : Nat} (h : a ∈ s.contended) :
    s.memRead a = (s.mem.read a).map fun _ => Config.drawByte s.draws a := by
  unfold State.memRead
  cases s.mem.read a <;> simp [h]

end Sys2Proof.Machine
end

