-- ==== Sys2Proof/Laws/Exec.lean ====
section
/-! SUPPORT. What a command can do, said once: `exec` is the issue of one change of the state, and that change is a
written RESULT, a written table, or a fault. -/

namespace Sys2Proof.Machine

/-- The change a command makes to a block that is not faulted. -/
def commandRun : Instr → State → State
  | .rev8 => runRev 8
  | .rev16 => runRev 16
  | .rev32 => runRev 32
  | .tbuildF8 => runTbuildF 8
  | .tbuildF16 => runTbuildF 16
  | .tbuildF32 => runTbuildF 32
  | .tbuildR8 => runTbuildR 8
  | .tbuildR16 => runTbuildR 16
  | .tbuildR32 => runTbuildR 32
  | .eval8 ir rr => runEval 8 ir rr (encode (.eval8 ir rr))
  | .eval16 ir rr => runEval 16 ir rr (encode (.eval16 ir rr))
  | .eval32 ir rr => runEval 32 ir rr (encode (.eval32 ir rr))
  | i => fun s => s.takeFault .unsupportedWidth (encode i)

/-- Every command is issued (60_exceptions.md rule R205) and makes its change. -/
theorem exec_eq_issue (i : Instr) (s : State) : exec i s = issue s (commandRun i) := by
  cases i <;> rfl

/-- Everything an evaluation's checks can answer, with the conditions (42_crc_evaluator.md rule R140). -/
theorem evalChecks_cases (w : Nat) (s : State) :
    (evalChecks w s = .error .unsupportedPoly ∧ registryHas (s.operand w .poly) = false) ∨
    (evalChecks w s = .error .sizeRange ∧ registryHas (s.operand w .poly) = true ∧ s.bufferInRange = false) ∨
    (evalChecks w s = .error .bufferAccess ∧ registryHas (s.operand w .poly) = true ∧ s.bufferInRange = true ∧
      s.buffer = none) ∨
    (∃ bytes, evalChecks w s = .ok bytes ∧ registryHas (s.operand w .poly) = true ∧ s.bufferInRange = true ∧
      s.buffer = some bytes) := by
  unfold evalChecks
  cases registryHas (s.operand w .poly)
  · simp
  · cases s.bufferInRange
    · simp
    · cases s.buffer <;> simp

/-- Everything an evaluation can do: a fault, or RESULT written and the draw counter moved on. -/
theorem runEval_cases (w : Nat) (ir rr : Bool) (c : Word) (s : State) :
    (∃ k, evalChecks w s = .error k ∧ runEval w ir rr c s = s.takeFault k c) ∨
    (∃ bytes, evalChecks w s = .ok bytes ∧
      runEval w ir rr c s = (s.setResult ((evalValue w ir rr s bytes).setWidth 32)).nextDraw) := by
  unfold runEval
  cases evalChecks w s <;> simp

/-- Everything a command's change can be (10_state.md rule R36): it writes RESULT alone, TBUF alone, RESULT and the
draw counter, or it takes a fault on its own word. -/
theorem commandRun_cases (i : Instr) (s : State) :
    (∃ v, commandRun i s = s.setResult v) ∨ (∃ entry, commandRun i s = s.setTable entry) ∨
    (∃ v, commandRun i s = (s.setResult v).nextDraw) ∨ (∃ k, commandRun i s = s.takeFault k (encode i)) := by
  have eval : ∀ w ir rr, (∃ v, runEval w ir rr (encode i) s = (s.setResult v).nextDraw) ∨
      (∃ k, runEval w ir rr (encode i) s = s.takeFault k (encode i)) := fun w ir rr => by
    rcases runEval_cases w ir rr (encode i) s with ⟨k, -, h⟩ | ⟨b, -, h⟩
    · exact .inr ⟨k, h⟩
    · exact .inl ⟨_, h⟩
  cases i
  case rev8 => exact .inl ⟨_, rfl⟩
  case rev16 => exact .inl ⟨_, rfl⟩
  case rev32 => exact .inl ⟨_, rfl⟩
  case tbuildF8 => exact .inr (.inl ⟨_, rfl⟩)
  case tbuildF16 => exact .inr (.inl ⟨_, rfl⟩)
  case tbuildF32 => exact .inr (.inl ⟨_, rfl⟩)
  case tbuildR8 => exact .inr (.inl ⟨_, rfl⟩)
  case tbuildR16 => exact .inr (.inl ⟨_, rfl⟩)
  case tbuildR32 => exact .inr (.inl ⟨_, rfl⟩)
  case eval8 ir rr => exact .inr (.inr (eval 8 ir rr))
  case eval16 ir rr => exact .inr (.inr (eval 16 ir rr))
  case eval32 ir rr => exact .inr (.inr (eval 32 ir rr))
  all_goals exact .inr (.inr (.inr ⟨_, rfl⟩))

end Sys2Proof.Machine
end

