-- ==== Sys2Proof/Laws/PerInstr.lean ====
section
/-! SUPPORT. Statements about every instruction as syntax, one lemma per constructor. -/

namespace Sys2Proof.Laws.LegalFields

/-- The instruction's fields pass the checks of 30_encoding.md rule R71, and its word carries exactly those fields. -/
def Statement (i : Instr) : Prop := i.wellFormed = true ∧ wordFields (encode i) = i.fields

theorem rev8 : Statement .rev8 := ⟨rfl, by decide⟩

theorem rev16 : Statement .rev16 := ⟨rfl, by decide⟩

theorem rev32 : Statement .rev32 := ⟨rfl, by decide⟩

theorem tbuildF8 : Statement .tbuildF8 := ⟨rfl, by decide⟩

theorem tbuildF16 : Statement .tbuildF16 := ⟨rfl, by decide⟩

theorem tbuildF32 : Statement .tbuildF32 := ⟨rfl, by decide⟩

theorem tbuildR8 : Statement .tbuildR8 := ⟨rfl, by decide⟩

theorem tbuildR16 : Statement .tbuildR16 := ⟨rfl, by decide⟩

theorem tbuildR32 : Statement .tbuildR32 := ⟨rfl, by decide⟩

theorem eval8 (ir rr : Bool) : Statement (.eval8 ir rr) := by
  cases ir <;> cases rr <;> exact ⟨rfl, by decide⟩

theorem eval16 (ir rr : Bool) : Statement (.eval16 ir rr) := by
  cases ir <;> cases rr <;> exact ⟨rfl, by decide⟩

theorem eval32 (ir rr : Bool) : Statement (.eval32 ir rr) := by
  cases ir <;> cases rr <;> exact ⟨rfl, by decide⟩

theorem revBw0 : Statement .revBw0 := ⟨rfl, by decide⟩

theorem revBw3 : Statement .revBw3 := ⟨rfl, by decide⟩

theorem revBw5 : Statement .revBw5 := ⟨rfl, by decide⟩

theorem revBw6 : Statement .revBw6 := ⟨rfl, by decide⟩

theorem revBw7 : Statement .revBw7 := ⟨rfl, by decide⟩

theorem tbuildBw0 (m : Bool) : Statement (.tbuildBw0 m) := by
  cases m <;> exact ⟨rfl, by decide⟩

theorem tbuildBw3 (m : Bool) : Statement (.tbuildBw3 m) := by
  cases m <;> exact ⟨rfl, by decide⟩

theorem tbuildBw5 (m : Bool) : Statement (.tbuildBw5 m) := by
  cases m <;> exact ⟨rfl, by decide⟩

theorem tbuildBw6 (m : Bool) : Statement (.tbuildBw6 m) := by
  cases m <;> exact ⟨rfl, by decide⟩

theorem tbuildBw7 (m : Bool) : Statement (.tbuildBw7 m) := by
  cases m <;> exact ⟨rfl, by decide⟩

theorem evalBw0 (ir rr : Bool) : Statement (.evalBw0 ir rr) := by
  cases ir <;> cases rr <;> exact ⟨rfl, by decide⟩

theorem evalBw3 (ir rr : Bool) : Statement (.evalBw3 ir rr) := by
  cases ir <;> cases rr <;> exact ⟨rfl, by decide⟩

theorem evalBw5 (ir rr : Bool) : Statement (.evalBw5 ir rr) := by
  cases ir <;> cases rr <;> exact ⟨rfl, by decide⟩

theorem evalBw6 (ir rr : Bool) : Statement (.evalBw6 ir rr) := by
  cases ir <;> cases rr <;> exact ⟨rfl, by decide⟩

theorem evalBw7 (ir rr : Bool) : Statement (.evalBw7 ir rr) := by
  cases ir <;> cases rr <;> exact ⟨rfl, by decide⟩

end Sys2Proof.Laws.LegalFields
end

