-- ==== Sys2Proof/Machine/HostCalls.lean ====
section
/-! DEFINITION. The pseudo-instructions of 30_encoding.md rule R78: the document's calls as lists of host transactions
on a block at `blockBase`. -/

namespace Sys2Proof.Machine

/-- The command word of a `crc16` (`base` 0x23) or `crc32` (`base` 0x43) call: `base | (ir << 9) | (rr << 10)`. -/
def crcCommand (base : Word) (ir rr : Bool) : Word :=
  base ||| ((BitVec.ofBool ir).setWidth 32 <<< 9) ||| ((BitVec.ofBool rr).setWidth 32 <<< 10)

/-- The transactions of a CRC call, in rule R78's order. -/
def crcCall (blockBase : Nat) (command p c a n init xin xout : Word) : List Transaction :=
  [wr blockBase (.arg .poly) p, wr blockBase (.arg .crc) c, wr blockBase (.arg .addr) a, wr blockBase (.arg .size) n,
   wr blockBase (.arg .init) init, wr blockBase (.arg .xin) xin, wr blockBase (.arg .xout) xout,
   wr blockBase .cmd command, rd blockBase .result]

/-- `crc16 p, c, a, n [, init=0xFFFF, xin=0x0, xout=0xFFFF, ir=0, rr=0]` (rule R78). -/
def crc16Call (blockBase : Nat) (p c a n : Word) (init : Word := 0xFFFF) (xin : Word := 0) (xout : Word := 0xFFFF)
    (ir : Bool := false) (rr : Bool := false) : List Transaction :=
  crcCall blockBase (crcCommand 0x23 ir rr) p c a n init xin xout

/-- `crc32 p, c, a, n [, init=0xFFFFFFFF, xin=0x0, xout=0xFFFFFFFF, ir=0, rr=0]` (rule R78). -/
def crc32Call (blockBase : Nat) (p c a n : Word) (init : Word := 0xFFFFFFFF) (xin : Word := 0)
    (xout : Word := 0xFFFFFFFF) (ir : Bool := false) (rr : Bool := false) : List Transaction :=
  crcCall blockBase (crcCommand 0x43 ir rr) p c a n init xin xout

/-- The words of the TBUILD commands that do not fault on their width (rule R74). -/
def tbuildWords : List Word := [0x12, 0x22, 0x42, 0x112, 0x122, 0x142]

/-- The command word of `build_table` for any byte width: `0x00000002 | (bw << 4) | (reflect << 8)` (rule R78). "With
`byte_width` outside {1, 2, 4}" the call "expands to a word that faults"; the few byte widths whose formula gives a
TBUILD word that does not (17, 18 and 20 are the least) get that word with the reserved bit 7 set, which faults. Which
faulting word they get is a DESIGN CHOICE, log entry 11. -/
def buildCommand (bw : Nat) (reflect : Bool) : Word :=
  let c := 0x2 ||| (BitVec.ofNat 32 bw <<< 4) ||| ((BitVec.ofBool reflect).setWidth 32 <<< 8)
  if bw ∉ [1, 2, 4] ∧ c ∈ tbuildWords then c ||| 0x80 else c

/-- `build_table p, bw, reflect` without its optional reads (rule R78). -/
def buildTableCall (blockBase : Nat) (p : Word) (bw : Nat) (reflect : Bool) : List Transaction :=
  [wr blockBase (.arg .poly) p, wr blockBase .cmd (buildCommand bw reflect)]

/-- The optional reads of `build_table`, `rd TBUF[0]` to `rd TBUF[255]` (rule R78). -/
def tableReads (blockBase : Nat) : List Transaction :=
  (List.range 256).map fun i => rd blockBase (.tbuf (BitVec.ofNat 8 i))

/-- The widths `reflect` takes, "w in {8,16,32}"; with any other it "is not expressible" (rule R78). -/
inductive ReflectWidth where
  | w8
  | w16
  | w32
  deriving DecidableEq, Repr

/-- The width in bits. -/
def ReflectWidth.bits : ReflectWidth → Nat
  | .w8 => 8
  | .w16 => 16
  | .w32 => 32

/-- `reflect v, w` (rule R78). Each width is a multiple of 8, so `w / 8` is exact. -/
def reflectCall (blockBase : Nat) (v : Word) (w : ReflectWidth) : List Transaction :=
  [wr blockBase (.arg .val) v, wr blockBase .cmd (0x1 ||| (BitVec.ofNat 32 (w.bits / 8) <<< 4)), rd blockBase .result]

end Sys2Proof.Machine
end

