-- ==== Sys2Proof/Safety.lean ====
section
/-! DEFINITION. What a run is and how it ends (43_host_interface.md rule R175), and the invariant of the machine. -/

namespace Sys2Proof.Safety

open Sys2Proof.Machine

/-- The start state of a program: reset state plus the register values and data memory it states, with its
transactions to come (rule R175). The registers are the host registers of 10_state.md rule R20: the argument registers,
RESULT, STATUS and FCMD, each at its reset value where the program states none; CMD holds nothing, and TBUF starts
unwritten (DEDUCED, log entry 12). -/
def startState (blockBase : Nat) (mem : Memory) (program : List Transaction) (args : ArgRegs := ArgRegs.zero)
    (result : Word := 0) (status : Word := 0) (fcmd : Word := 0) : State :=
  { State.reset with
    args := args
    result := result
    status := status
    fcmd := fcmd
    mem := mem
    blockBase := blockBase
    pending := program }

/-- The run of a program from its start state: one step a transaction (rule R175). A run that was refused, or read an
unwritten TBUF word, has no end state. -/
def run (start : State) : Host.Outcome State Fault Refusal := Sys2Proof.core.run start.pending.length start

/-- "A run *faulted* if STATUS.FAULTED = 1 in its end state" (rule R175). -/
def runFaulted (start : State) : Prop := ∃ t, run start = .next t ∧ t.faulted = true

/-- A run that ended with STATUS.FAULTED = 0, the premise of a claim about a program (rule R175). -/
def runCompleted (start : State) : Prop := ∃ t, run start = .next t ∧ t.faulted = false

/-- A run is refused "if any transaction was refused ... or read an unwritten TBUF word" (rule R175). -/
def runRefused (start : State) : Prop := ∀ t, run start ≠ .next t

/-- The commands that can raise cause `k` (60_exceptions.md rule R201, the column "raised by" with its condition on
the word): ILLEGAL_COMMAND a word that is no command, UNSUPPORTED_WIDTH a command whose BW is none of 1, 2, 4,
UNSUPPORTED_POLY an EVAL of any width, SIZE_RANGE and BUFFER_ACCESS an EVAL of a width the registry holds. -/
def raisedBy (k : Cause) (c : Word) : Bool :=
  match k, decode c with
  | .illegalCommand, .error _ => true
  | .unsupportedWidth, .ok (.revBw0) => true
  | .unsupportedWidth, .ok (.revBw3) => true
  | .unsupportedWidth, .ok (.revBw5) => true
  | .unsupportedWidth, .ok (.revBw6) => true
  | .unsupportedWidth, .ok (.revBw7) => true
  | .unsupportedWidth, .ok (.tbuildBw0 _) => true
  | .unsupportedWidth, .ok (.tbuildBw3 _) => true
  | .unsupportedWidth, .ok (.tbuildBw5 _) => true
  | .unsupportedWidth, .ok (.tbuildBw6 _) => true
  | .unsupportedWidth, .ok (.tbuildBw7 _) => true
  | .unsupportedWidth, .ok (.evalBw0 _ _) => true
  | .unsupportedWidth, .ok (.evalBw3 _ _) => true
  | .unsupportedWidth, .ok (.evalBw5 _ _) => true
  | .unsupportedWidth, .ok (.evalBw6 _ _) => true
  | .unsupportedWidth, .ok (.evalBw7 _ _) => true
  | .unsupportedPoly, .ok (.eval8 _ _) => true
  | .unsupportedPoly, .ok (.eval16 _ _) => true
  | .unsupportedPoly, .ok (.eval32 _ _) => true
  | .sizeRange, .ok (.eval16 _ _) => true
  | .sizeRange, .ok (.eval32 _ _) => true
  | .bufferAccess, .ok (.eval16 _ _) => true
  | .bufferAccess, .ok (.eval32 _ _) => true
  | _, _ => false

/-- The fault latch is clear, or STATUS holds the word of one cause of rule R201 and FCMD a command word that can
raise that cause (10_state.md rules R26, R27). -/
def LatchSound (s : State) : Prop :=
  (s.status = 0 ∧ s.fcmd = 0) ∨ ∃ k : Cause, s.status = k.statusWord ∧ raisedBy k s.fcmd = true

/-- TBUF is unwritten as a whole or written as a whole: a TBUILD writes all 256 words (10_state.md rule R29). -/
def TableUniform (s : State) : Prop :=
  (∀ i : Byte, s.tbufWord i = none) ∨ (∀ i : Byte, (s.tbufWord i).isSome = true)

/-- The invariant of the machine: a sound fault latch, a uniform table buffer, data memory in its canonical form. -/
structure MachineInv (s : State) : Prop where
  latch : LatchSound s
  table : TableUniform s
  memory : s.mem.wf

end Sys2Proof.Safety
end

