-- ==== Sys2Proof/Certificates/Slice0/Obligations.lean ====
section
/-! DEFINITION. The statements for the provers. What a statement needs is written out here from the rules, not taken
from the meanings: the reflection bit by bit, the table entries as the loops of 41_table_builder.md, the evaluation as
the steps of 42_crc_evaluator.md, the fault words as numbers. -/

namespace Sys2Proof.Claims

open Sys2Proof.Machine

/-- Bit W-1-i of `y` is bit i of `x`, and `y` is 0 from bit W on (00_scope.md rule R10, 10_state.md rule R25). -/
def IsReflection (w : Nat) (x y : Word) : Prop :=
  (∀ i, i < w → y.getLsbD (w - 1 - i) = x.getLsbD i) ∧ ∀ i, w ≤ i → y.getLsbD i = false

/-- `FWD_TABLE(p, W)[b]` as the loop of 41_table_builder.md rule R121. -/
def forwardTable {w : Nat} (p : BitVec w) (b : Byte) : BitVec w :=
  (List.range 8).foldl (fun r _ => if r.getLsbD 0 = true then (r >>> 1) ^^^ p.reverse else r >>> 1) (b.setWidth w)

/-- `REF_TABLE(p, W)[d]` as the loop of 41_table_builder.md rule R122. -/
def reflectedTable {w : Nat} (p : BitVec w) (d : Byte) : BitVec w :=
  (List.range 8).foldl (fun r _ => if r.msb = true then (r <<< 1) ^^^ p else r <<< 1) (d.setWidth w <<< (w - 8))

/-- `(p, W)` is one of the seven registry keys (42_crc_evaluator.md rule R141). -/
def Registered (w : Nat) (p : BitVec w) : Prop :=
  (w = 16 ∧ p.toNat ∈ [0x1021, 0xC867, 0x8005]) ∨
  (w = 32 ∧ p.toNat ∈ [0x04C11DB7, 0x1EDC6F41, 0xA833982B, 0x814141AB])

/-- Step 2 (42_crc_evaluator.md rule R142). -/
def seeded {w : Nat} (crc init : BitVec w) : BitVec w := if crc = 0 ∧ init ≠ 0 then init else crc

/-- A buffer byte as it enters the register: reflected first if `ir` (42_crc_evaluator.md rule R143). -/
def entering (ir : Bool) (b : Byte) : Byte := if ir then b.reverse else b

/-- Steps 5 and 6 (42_crc_evaluator.md rules R144, R145). -/
def finished {w : Nat} (rr : Bool) (crc xout : BitVec w) : BitVec w := (if rr then crc.reverse else crc) ^^^ xout

/-- Steps 2 to 6 of 42_crc_evaluator.md rule R140 over a buffer. -/
def crcOf {w : Nat} (p crc init xin xout : BitVec w) (ir rr : Bool) (bytes : List Byte) : BitVec w :=
  finished rr
    (bytes.foldl
      (fun c b => forwardTable p ((c ^^^ (entering ir b).setWidth w).setWidth 8) ^^^ (c >>> 8))
      (seeded crc init ^^^ xin))
    xout

/-- One byte through the bit-serial shift register of 41_table_builder.md rule R121: the byte meets bits [7:0], then
eight right shifts, each followed by an XOR with the reflected polynomial if the bit shifted out was 1. -/
def serialByte {w : Nat} (p : BitVec w) (crc : BitVec w) (b : Byte) : BitVec w :=
  (List.range 8).foldl (fun r _ => if r.getLsbD 0 = true then (r >>> 1) ^^^ p.reverse else r >>> 1)
    (crc ^^^ b.setWidth w)

/-- The bitwise CRC of the parameter model that 42_crc_evaluator.md rule R151 speaks of: a left-shifting register
started at `init`, each byte (reflected if `refin`) met at the top, eight steps with the polynomial, the register
reflected at the end if `refout`, then XOR with `xorout`. From general knowledge (93_implementation_defined.md I11). -/
def catalogCrc {w : Nat} (poly init xorout : BitVec w) (refin refout : Bool) (bytes : List Byte) : BitVec w :=
  finished refout
    (bytes.foldl
      (fun r b => (List.range 8).foldl (fun r _ => if r.msb = true then (r <<< 1) ^^^ poly else r <<< 1)
        (r ^^^ ((entering refin b).setWidth w <<< (w - 8))))
      init)
    xorout

/-- A REV command (40_bit_reflector.md rule R101): issued to a block that is not faulted, it leaves the reflection of
VAL's low W bits in RESULT and changes nothing else. -/
def RevCommand (i : Instr) (c : Word) (w : Nat) : Prop :=
  encode i = c ∧ ∀ s : State, s.faulted = false →
    ∃ t, exec i s = .next t ∧ IsReflection w s.args.val t.result ∧ t = { s with result := t.result }

/-- A TBUILD command (41_table_builder.md rule R120): issued to a block that is not faulted, it leaves the table of
POLY's low W bits in all 256 words of TBUF, zero-extended, and changes nothing else. -/
def TbuildCommand (i : Instr) (c : Word) (w : Nat) (table : BitVec w → Byte → BitVec w) : Prop :=
  encode i = c ∧ ∀ s : State, s.faulted = false →
    ∃ t, exec i s = .next t ∧
      (∀ b : Byte, t.tbufWord b = some ((table (s.args.poly.setWidth w) b).setWidth 32)) ∧
      t = { s with tbuf := t.tbuf }

/-- The buffer of an EVAL in `s` is `bytes`, in increasing address order (20_memory.md rules R51, R54). `memRead` is
the model's read of one byte: a readable byte that another agent writes meanwhile is a free value (rule R62 (d)). -/
def BufferIs (s : State) (bytes : List Byte) : Prop :=
  bytes.length = s.args.size.toNat ∧
  ∀ k (h : k < bytes.length), s.memRead (s.args.addr.toNat + k) = some bytes[k]

/-- An EVAL of width `w` whose checks pass (42_crc_evaluator.md rule R140) completes: RESULT is the value of steps 2 to
6, zero-extended; nothing else changes but the model's own draw counter. -/
def EvalCommand (w : Nat) (i : Bool → Bool → Instr) : Prop :=
  ∀ (ir rr : Bool) (s : State) (bytes : List Byte), s.faulted = false →
    Registered w (s.args.poly.setWidth w) → s.args.addr.toNat + s.args.size.toNat ≤ 2 ^ 32 → BufferIs s bytes →
    ∃ t, exec (i ir rr) s = .next t ∧
      t.result = (crcOf (s.args.poly.setWidth w) (s.args.crc.setWidth w) (s.args.init.setWidth w)
        (s.args.xin.setWidth w) (s.args.xout.setWidth w) ir rr bytes).setWidth 32 ∧
      t = { s with result := t.result, draws := s.draws + 1 }

/-- In a block that is not faulted, command `i` takes the fault with STATUS word `status` on its own word `c`, and
changes nothing else (60_exceptions.md rule R203). -/
def Faults (i : Instr) (c status : Word) (s : State) : Prop :=
  encode i = c ∧ exec i s = .next { s with status := status, fcmd := c }

/-- The state of the host's second of two chained EVALs: CRC set to `crc2`, INIT set to `init2`, the buffer the `m`
bytes after the first `n` (42_crc_evaluator.md rule R147). -/
def chained (t : State) (crc2 init2 : Word) (n m : Nat) : State :=
  (((t.setArg .crc crc2).setArg .init init2).setArg .addr (t.args.addr + BitVec.ofNat 32 n)).setArg .size
    (BitVec.ofNat 32 m)

/-- Two consecutive EVALs over the `n` and the `m` bytes from ADDR on, and the one EVAL over all of them, each of which
passes its checks, on bytes that nothing else writes (42_crc_evaluator.md rule R147, 20_memory.md rule R62 (d)). -/
structure ChunkSetting (w : Nat) (s : State) (n m : Nat) : Prop where
  notFaulted : s.faulted = false
  registered : Registered w (s.args.poly.setWidth w)
  sizeFits : n + m < 2 ^ 32
  inRange : s.args.addr.toNat + (n + m) ≤ 2 ^ 32
  readable : ∀ k, k < n + m → (s.mem.read (s.args.addr.toNat + k)).isSome = true
  heldStill : ∀ k, k < n + m → s.args.addr.toNat + k ∉ s.contended

/-- The split result equals the whole one under conditions (i), RR = 0, (ii), XIN = XOUT, and (iii), for the EVAL `i` of
width `w`, the first RESULT written into CRC (rule R147). -/
def ChunkingHolds (w : Nat) (i : Bool → Bool → Instr) : Prop :=
  ∀ (ir : Bool) (s : State) (n m : Nat), ChunkSetting w s n m → s.args.xin.setWidth w = s.args.xout.setWidth w →
    ∃ t1 tw, exec (i ir false) (s.setArg .size (BitVec.ofNat 32 n)) = .next t1 ∧
      exec (i ir false) (s.setArg .size (BitVec.ofNat 32 (n + m))) = .next tw ∧
      ∀ init2 : Word, init2.setWidth w = 0 ∨ t1.result ≠ 0 →
        ∃ t2, exec (i ir false) (chained t1 t1.result init2 n m) = .next t2 ∧ t2.result = tw.result

/-- Where (i) and (ii) hold and condition (iii) fails, the split result differs from the whole one, for the EVAL `i` of
width `w` (rule R148). -/
def SeamDiffers (w : Nat) (i : Bool → Bool → Instr) : Prop :=
  ∀ (ir : Bool) (s : State) (n m : Nat), ChunkSetting w s n m → s.args.xin.setWidth w = s.args.xout.setWidth w →
    ∃ t1 tw, exec (i ir false) (s.setArg .size (BitVec.ofNat 32 n)) = .next t1 ∧
      exec (i ir false) (s.setArg .size (BitVec.ofNat 32 (n + m))) = .next tw ∧
      ∀ init2 : Word, init2.setWidth w ≠ 0 → t1.result = 0 →
        ∃ t2, exec (i ir false) (chained t1 t1.result init2 n m) = .next t2 ∧ t2.result ≠ tw.result

/-- What the host makes of a RESULT before it chains, "of its own accord": "XOR with XOUT, then REV at width W if RR = 1,
then XOR with XIN" (70_reset_and_hazards.md rule R236). -/
def restored (w : Nat) (rr : Bool) (s : State) (result : Word) : BitVec w :=
  (if rr then (result.setWidth w ^^^ s.args.xout.setWidth w).reverse else result.setWidth w ^^^ s.args.xout.setWidth w) ^^^
    s.args.xin.setWidth w

/-- With the register restored by the host and INIT = 0 on the continuation, the split result equals the whole one for
both RR, and for every XIN and XOUT, for the EVAL `i` of width `w` (rule R236). -/
def RestoredChainingHolds (w : Nat) (i : Bool → Bool → Instr) : Prop :=
  ∀ (ir rr : Bool) (s : State) (n m : Nat), ChunkSetting w s n m →
    ∃ t1 tw t2, exec (i ir rr) (s.setArg .size (BitVec.ofNat 32 n)) = .next t1 ∧
      exec (i ir rr) (s.setArg .size (BitVec.ofNat 32 (n + m))) = .next tw ∧
      exec (i ir rr) (chained t1 ((restored w rr s t1.result).setWidth 32) 0 n m) = .next t2 ∧ t2.result = tw.result

/-- Two states give an EVAL of width `w` the same operands (30_encoding.md rule R72): the low W bits of the five value
registers, ADDR and SIZE whole, and the bytes of the buffer. -/
structure SameOperands (w : Nat) (s u : State) : Prop where
  poly : s.args.poly.setWidth w = u.args.poly.setWidth w
  crc : s.args.crc.setWidth w = u.args.crc.setWidth w
  init : s.args.init.setWidth w = u.args.init.setWidth w
  xin : s.args.xin.setWidth w = u.args.xin.setWidth w
  xout : s.args.xout.setWidth w = u.args.xout.setWidth w
  addr : s.args.addr = u.args.addr
  size : s.args.size = u.args.size
  bytes : ∀ k, k < s.args.size.toNat → s.memRead (s.args.addr.toNat + k) = u.memRead (u.args.addr.toNat + k)

/-- The rows of 30_encoding.md rule R74: (match, mask). -/
def opcodeRows : List (Word × Word) :=
  [(0x00000011, 0xFFFFFFFF), (0x00000021, 0xFFFFFFFF), (0x00000041, 0xFFFFFFFF),
   (0x00000012, 0xFFFFFFFF), (0x00000022, 0xFFFFFFFF), (0x00000042, 0xFFFFFFFF),
   (0x00000112, 0xFFFFFFFF), (0x00000122, 0xFFFFFFFF), (0x00000142, 0xFFFFFFFF),
   (0x00000013, 0xFFFFF9FF), (0x00000023, 0xFFFFF9FF), (0x00000043, 0xFFFFF9FF),
   (0x00000001, 0xFFFFFFFF), (0x00000031, 0xFFFFFFFF), (0x00000051, 0xFFFFFFFF), (0x00000061, 0xFFFFFFFF),
   (0x00000071, 0xFFFFFFFF),
   (0x00000002, 0xFFFFFEFF), (0x00000032, 0xFFFFFEFF), (0x00000052, 0xFFFFFEFF), (0x00000062, 0xFFFFFEFF),
   (0x00000072, 0xFFFFFEFF),
   (0x00000003, 0xFFFFF9FF), (0x00000033, 0xFFFFF9FF), (0x00000053, 0xFFFFF9FF), (0x00000063, 0xFFFFF9FF),
   (0x00000073, 0xFFFFF9FF)]

/-- Offset and name of the argument registers (10_state.md rule R21). -/
def argOffsets : List (Nat × ArgReg) :=
  [(0x010, .poly), (0x014, .crc), (0x018, .init), (0x01C, .xin), (0x020, .xout), (0x024, .addr), (0x028, .size),
   (0x02C, .val)]

/-- The TBUILD commands. -/
def isTbuild (i : Instr) : Prop :=
  i = .tbuildF8 ∨ i = .tbuildF16 ∨ i = .tbuildF32 ∨ i = .tbuildR8 ∨ i = .tbuildR16 ∨ i = .tbuildR32

/-- The commands that can write RESULT: REV, and EVAL at a width of the registry. -/
def writesResult (i : Instr) : Prop :=
  i = .rev8 ∨ i = .rev16 ∨ i = .rev32 ∨ ∃ ir rr, i = .eval16 ir rr ∨ i = .eval32 ir rr

end Sys2Proof.Claims

open Sys2Proof Sys2Proof.Machine Sys2Proof.Safety Sys2Proof.Claims

/-! ### Encoding -/

/-- 30_encoding.md rule R74: words written out from the encoding, one per family and one with free bits set, decode to
the command they stand for. -/
def Obligations.FamilyWordsDecode : Prop :=
  decode 0x00000041 = .ok .rev32 ∧ decode 0x00000012 = .ok .tbuildF8 ∧ decode 0x00000122 = .ok .tbuildR16 ∧
  decode 0x00000643 = .ok (.eval32 true true) ∧ decode 0x00000423 = .ok (.eval16 false true) ∧
  decode 0x00000213 = .ok (.eval8 true false) ∧ decode 0x00000031 = .ok .revBw3 ∧
  decode 0x00000152 = .ok (.tbuildBw5 true) ∧ decode 0x00000663 = .ok (.evalBw6 true true) ∧
  decode 0x00000000 = .error .reservedOp ∧ decode 0x00000091 = .error .reservedBits

/-- Decoding and encoding are inverse in both directions: a word decodes to a command exactly when it is that command's
word. So no bit of a word is dropped, and no command has two words. -/
def Obligations.DecodeInvertsEncode : Prop :=
  ∀ (c : Word) (i : Instr), decode c = .ok i ↔ c = encode i

/-- 30_encoding.md rule R74: a word is a command exactly when it matches a row, and no word matches two rows. -/
def Obligations.WordsDecodeExactlyByOpcodeRows : Prop :=
  (∀ c : Word, (∃ i, decode c = .ok i) ↔ ∃ r ∈ opcodeRows, c &&& r.2 = r.1) ∧
  ∀ c : Word, ∀ r ∈ opcodeRows, ∀ q ∈ opcodeRows, c &&& r.2 = r.1 → c &&& q.2 = q.1 → r = q

/-- 30_encoding.md rule R71: the decoder refuses exactly the words whose fields break the field rules. -/
def Obligations.DecoderRefusesExactlyIllFormedFields : Prop :=
  ∀ c : Word, (∃ e, decode c = .error e) ↔ (wordFields c).wellFormed = false

/-- Every command is well-formed and its word carries exactly its fields (30_encoding.md rule R71). -/
def Obligations.EveryCommandCarriesItsFields : Prop :=
  ∀ i : Instr, Laws.LegalFields.Statement i

/-! ### Step and host interface -/

/-- 43_host_interface.md rule R171: when the host's next transaction writes a word to CMD that decodes to a command, the
step is `exec` of that command on the state with the transaction taken from those to come, and nothing else is added
around `exec`. The same for the word `withFetchWord` places. -/
def Obligations.StepRunsDecodedCommand : Prop :=
  (∀ (s : State) (c : Word) (i : Instr) (rest : List Transaction),
    s.pending = .write s.blockBase .word c :: rest → decode c = .ok i → i.wellFormed = true →
    step s = exec i { s with pending := rest }) ∧
  ∀ (s : State) (w : Nat) (i : Instr), decodeTableWord 32 w = some i → step (s.withFetchWord 32 w) = exec i s

/-- With no transaction to come a step changes nothing (the block is idle, 60_exceptions.md rule R215; that the model
steps then at all is its own choice, log entry 1). -/
def Obligations.IdleStepChangesNothing : Prop :=
  ∀ s : State, s.pending = [] → step s = .next s

/-- 43_host_interface.md rule R170: a 32-bit write to an argument register stores all 32 bits in it and changes no
other register and nothing else, whether or not the block is faulted; a sub-word or misaligned write is refused. -/
def Obligations.ArgumentWriteStoresWholeWord : Prop :=
  ∀ (s : State) (off : Nat) (r : ArgReg) (v : Word) (rest : List Transaction), (off, r) ∈ argOffsets →
    (s.pending = .write (s.blockBase + off) .word v :: rest →
      ∃ t, step s = .next t ∧ t.args.get r = v ∧ (∀ q, q ≠ r → t.args.get q = s.args.get q) ∧
        t = { s with args := t.args, pending := rest }) ∧
    (∀ size, size ≠ .word → s.pending = .write (s.blockBase + off) size v :: rest →
      step s = .refused .subWordAccess) ∧
    ∀ d, 0 < d → d < 4 → s.pending = .write (s.blockBase + off + d) .word v :: rest →
      step s = .refused .misalignedAccess

/-- 43_host_interface.md rule R172: a 32-bit read returns the register's value to the host, CMD reads 0, and the state
of the block does not change. -/
def Obligations.RegisterReadReturnsValue : Prop :=
  ∀ (s : State) (off : Nat) (v : Word) (rest : List Transaction),
    (off, v) ∈ [(0x000, 0), (0x004, s.status), (0x008, s.fcmd), (0x00C, s.result), (0x010, s.args.poly),
      (0x014, s.args.crc), (0x018, s.args.init), (0x01C, s.args.xin), (0x020, s.args.xout), (0x024, s.args.addr),
      (0x028, s.args.size), (0x02C, s.args.val)] →
    s.pending = .read (s.blockBase + off) .word :: rest →
    step s = .next { s with pending := rest, reads := s.reads ++ [v] }

/-- 10_state.md rule R34: a read of a TBUF word returns it where a TBUILD has written it since reset, and is a fault of
the host transaction where none has. -/
def Obligations.TableReadNeedsWrittenWord : Prop :=
  ∀ (s : State) (i : Byte) (rest : List Transaction),
    s.pending = .read (s.blockBase + (0x400 + 4 * i.toNat)) .word :: rest →
    (∀ v, s.tbufWord i = some v → step s = .next { s with pending := rest, reads := s.reads ++ [v] }) ∧
    (s.tbufWord i = none → step s = .fault .unwrittenTableWord)

/-- 43_host_interface.md rule R173: a write to STATUS, FCMD, RESULT or a TBUF word changes nothing. -/
def Obligations.ReadOnlyWriteIgnored : Prop :=
  ∀ (s : State) (off : Nat) (v : Word) (rest : List Transaction),
    (off = 0x004 ∨ off = 0x008 ∨ off = 0x00C ∨ ∃ i : Byte, off = 0x400 + 4 * i.toNat) →
    s.pending = .write (s.blockBase + off) .word v :: rest → step s = .next { s with pending := rest }

/-- 20_memory.md rule R55: an access of 8 or 16 bits, and a 32-bit one at an offset that is no multiple of 4, is
refused; reads and writes alike. Where an access is refused for several reasons (a byte access at 0x031, a 32-bit one at
0x801), which of them it is refused by name for is the model's choice, log entry 6: rules R55 and R56 order none. -/
def Obligations.SubWordAndMisalignedAccessRefused : Prop :=
  ∀ (s : State) (off : Nat) (size : AccessSize) (rest : List Transaction),
    ((∃ v, s.pending = .write (s.blockBase + off) size v :: rest) ∨
      s.pending = .read (s.blockBase + off) size :: rest) →
    (size ≠ .word → step s = .refused .subWordAccess) ∧
    (size = .word → off % 4 ≠ 0 → step s = .refused .misalignedAccess)

/-- 20_memory.md rule R56: every access at an offset in 0x030 to 0x3FC, or at or above 0x800, is refused; an aligned
32-bit one as an unmapped access. -/
def Obligations.UnmappedAccessRefused : Prop :=
  ∀ (s : State) (off : Nat) (size : AccessSize) (rest : List Transaction),
    ((∃ v, s.pending = .write (s.blockBase + off) size v :: rest) ∨
      s.pending = .read (s.blockBase + off) size :: rest) →
    (0x030 ≤ off ∧ off ≤ 0x3FC) ∨ 0x800 ≤ off →
    (∃ r, step s = .refused r) ∧ (size = .word → off % 4 = 0 → step s = .refused .unmappedAccess)

/-- What the outside world does to data memory is what `memRead`, the block's only read of it, then sees (20_memory.md
rules R51, R52, R62 (b)). After the host stores a byte, the block reads it, unless another agent writes it meanwhile: then
it reads the free value (rule R62 (d)). After a byte stops being readable, the block reads nothing there. Every other
byte is as before, for the memory and for the block. `contend` only says which bytes another agent writes: the others
read as data memory holds them, and those of them that are readable read as the free value. That `Readable` is listing
in the memory is the model's choice, log entry 2; the form of `contend` and of the free value is log entry 4's. -/
def Obligations.HostMemoryActsAreSeen : Prop :=
  ∀ (s : State) (rest : List Transaction),
    (∀ (a : Word) (b : Byte), s.pending = .storeByte a b :: rest →
      ∃ t, step s = .next t ∧ t.mem.read a.toNat = some b ∧
        (a.toNat ∉ s.contended → t.memRead a.toNat = some b) ∧
        (a.toNat ∈ s.contended → t.memRead a.toNat = some (Config.drawByte s.draws a.toNat)) ∧
        (∀ x, x ≠ a.toNat → t.mem.read x = s.mem.read x ∧ t.memRead x = s.memRead x) ∧
        t = { s with pending := rest, mem := t.mem }) ∧
    (∀ a : Word, s.pending = .hideByte a :: rest →
      ∃ t, step s = .next t ∧ t.mem.read a.toNat = none ∧ t.memRead a.toNat = none ∧
        (∀ x, x ≠ a.toNat → t.mem.read x = s.mem.read x ∧ t.memRead x = s.memRead x) ∧
        t = { s with pending := rest, mem := t.mem }) ∧
    ∀ addrs : List Nat, s.pending = .contend addrs :: rest →
      ∃ t, step s = .next t ∧ t = { s with pending := rest, contended := addrs } ∧
        (∀ x, x ∉ addrs → t.memRead x = s.mem.read x) ∧
        ∀ x ∈ addrs, t.memRead x = (s.mem.read x).map fun _ => Config.drawByte s.draws x

/-! ### Reset, faults, whole-machine rules -/

/-- 70_reset_and_hazards.md rule R230: the values after reset. -/
def Obligations.ResetStateHoldsSpecValues : Prop :=
  (∀ r : ArgReg, State.reset.args.get r = 0) ∧ State.reset.result = 0 ∧ State.reset.status = 0 ∧
  State.reset.fcmd = 0 ∧ readReg .cmd State.reset = some 0 ∧ ∀ i : Byte, State.reset.tbufWord i = none

/-- 70_reset_and_hazards.md rule R230: the reset input leaves every register of the block at 0 and every TBUF word
unwritten, whatever the block was doing, and touches neither data memory nor what is the host's; and no command is a
soft reset, since none clears the fault latch. -/
def Obligations.ResetInputRestoresBlock : Prop :=
  (∀ (s : State) (rest : List Transaction), s.pending = .reset :: rest →
    ∃ t, step s = .next t ∧ (∀ r : ArgReg, t.args.get r = 0) ∧ t.result = 0 ∧ t.status = 0 ∧ t.fcmd = 0 ∧
      readReg .cmd t = some 0 ∧ (∀ i : Byte, t.tbufWord i = none) ∧ t.mem = s.mem ∧ t.blockBase = s.blockBase ∧
      t.pending = rest ∧ t.reads = s.reads ∧ t.contended = s.contended ∧ t.draws = s.draws) ∧
  ∀ (i : Instr) (s t : State), s.faulted = true → exec i s = .next t → t.faulted = true

/-- 60_exceptions.md rule R205: while the block is faulted every write to CMD is ignored, of a command word or of any
other word, and argument writes and reads behave as ever. -/
def Obligations.FaultedBlockIgnoresCommands : Prop :=
  ∀ (s : State) (rest : List Transaction), s.faulted = true →
    (∀ c : Word, s.pending = .write s.blockBase .word c :: rest → step s = .next { s with pending := rest }) ∧
    (∀ off r v, (off, r) ∈ argOffsets → s.pending = .write (s.blockBase + off) .word v :: rest →
      step s = .next { s with pending := rest, args := s.args.set r v }) ∧
    (∀ r v, readReg r s = some v → s.pending = .read (s.blockBase + regOffset r) .word :: rest →
      step s = .next { s with pending := rest, reads := s.reads ++ [v] }) ∧
    ∀ r, readReg r s = none → s.pending = .read (s.blockBase + regOffset r) .word :: rest →
      step s = .fault .unwrittenTableWord

/-- 60_exceptions.md rule R206: reset clears a latched fault, and nothing else clears or overwrites it, over every step of
the machine. -/
def Obligations.OnlyResetClearsFault : Prop :=
  ∀ s t : State, s.faulted = true → step s = .next t →
    (∀ rest, s.pending = .reset :: rest → t.faulted = false) ∧
    ((∀ rest, s.pending ≠ .reset :: rest) → t.faulted = true ∧ t.status = s.status ∧ t.fcmd = s.fcmd)

/-- 60_exceptions.md rule R203, over every step of the machine: a block becomes faulted only by a write of a word `c` to
CMD; then STATUS holds `(k << 4) | 1` for a cause k of rule R201, FCMD holds `c`, and nothing else changes. -/
def Obligations.FaultEntryWritesLatchOnly : Prop :=
  ∀ s t : State, s.faulted = false → step s = .next t → t.faulted = true →
    ∃ (c : Word) (k : Nat) (rest : List Transaction), s.pending = .write s.blockBase .word c :: rest ∧ 1 ≤ k ∧ k ≤ 5 ∧
      t = { s with pending := rest, status := (BitVec.ofNat 32 k <<< 4) ||| 0x00000001, fcmd := c }

/-- 30_encoding.md rules R73, R75: a word that is no command raises ILLEGAL_COMMAND in a block that is not faulted:
STATUS is 0x11, FCMD is the word, and nothing else changes. -/
def Obligations.IllegalWordLatchesCauseOne : Prop :=
  ∀ (s : State) (c : Word) (rest : List Transaction), s.faulted = false →
    s.pending = .write s.blockBase .word c :: rest → (∀ r ∈ opcodeRows, c &&& r.2 ≠ r.1) →
    step s = .next { s with pending := rest, status := 0x00000011, fcmd := c }

/-- 20_memory.md rule R53: no command changes data memory, an argument register, or what is not the block's; the only
fields a command writes are RESULT, TBUF, STATUS and FCMD (and the model's own draw counter). -/
def Obligations.CommandsWriteOnlyBlockOutputs : Prop :=
  ∀ (i : Instr) (s t : State), exec i s = .next t →
    (∀ a, t.mem.read a = s.mem.read a) ∧
    t = { s with result := t.result, tbuf := t.tbuf, status := t.status, fcmd := t.fcmd, draws := t.draws }

/-- 10_state.md rule R36: a command that faults writes only STATUS and FCMD; one that completes leaves both. -/
def Obligations.FaultingCommandWritesOnlyLatch : Prop :=
  ∀ (i : Instr) (s t : State), s.faulted = false → exec i s = .next t →
    (t.faulted = true → t = { s with status := t.status, fcmd := encode i }) ∧
    (t.faulted = false → t.status = s.status ∧ t.fcmd = s.fcmd)

/-- 10_state.md rules R25 and R29, over all commands: only a TBUILD changes TBUF, and only a REV or an EVAL changes
RESULT. -/
def Obligations.ResultAndTableHaveTheirOwnWriters : Prop :=
  ∀ (i : Instr) (s t : State), exec i s = .next t →
    (t.tbuf ≠ s.tbuf → isTbuild i) ∧ (t.result ≠ s.result → writesResult i)

/-- 70_reset_and_hazards.md rule R239: every command terminates; `exec` of every command in every state answers a next
state. -/
def Obligations.EveryCommandAnswersNext : Prop :=
  ∀ (i : Instr) (s : State), ∃ t, exec i s = .next t

/-- The invariant holds right after reset. -/
def Obligations.ResetMeetsMachineInvariant : Prop := MachineInv State.reset

/-- Every step keeps the invariant: STATUS and FCMD are clear or hold one cause of 60_exceptions.md rule R201 with a
word that can raise it, TBUF is written whole or not at all (10_state.md rule R29), data memory is canonical. -/
def Obligations.StepKeepsMachineInvariant : Prop :=
  ∀ s t : State, MachineInv s → step s = .next t → MachineInv t

/-- 10_state.md rule R26, for a sound latch: FAULTED = 0 exactly when CAUSE = 0, CAUSE is at most 5 (60_exceptions.md
rule R201), and the reserved bits read 0. -/
def Obligations.SoundLatchHasLegalStatusFields : Prop :=
  ∀ s : State, LatchSound s →
    (s.faulted = false ↔ s.cause = 0) ∧ s.cause.toNat ≤ 5 ∧
    ∀ k, (1 ≤ k ∧ k ≤ 3) ∨ (8 ≤ k ∧ k ≤ 31) → s.status.getLsbD k = false

/-! ### Bit Reflector -/

/-- 00_scope.md rule R10 as the REV commands of 40_bit_reflector.md rule R101 give it, for each width. -/
def Obligations.RevCommandsReflectValue : Prop :=
  RevCommand .rev8 0x00000011 8 ∧ RevCommand .rev16 0x00000021 16 ∧ RevCommand .rev32 0x00000041 32

/-- 40_bit_reflector.md rule R102: the three paired swaps give `rev_8` of every byte. -/
def Obligations.ThreeSwapsReflectByte : Prop := ∀ b : Byte, revByteSwaps b = rev b

/-- 40_bit_reflector.md rule R103: reflecting twice is the identity at every width, and so is the pair of REV commands
with RESULT carried into VAL, on the low W bits. -/
def Obligations.ReflectionIsInvolution : Prop :=
  (∀ (w : Nat) (x : BitVec w), rev (rev x) = x) ∧
  ∀ (i : Instr) (w : Nat), (i, w) ∈ [(.rev8, 8), (.rev16, 16), (.rev32, 32)] →
    ∀ (s : State) (v : Word), s.faulted = false →
      ∃ t u, exec i (s.setArg .val v) = .next t ∧ exec i (t.setArg .val t.result) = .next u ∧
        u.result = (v.setWidth w).setWidth 32

/-! ### Table Builder -/

/-- 41_table_builder.md rule R121: `tbuild.f.W` leaves FWD_TABLE of POLY's low W bits in TBUF, for each width and every
polynomial. -/
def Obligations.TbuildForwardFillsTable : Prop :=
  TbuildCommand .tbuildF8 0x00000012 8 forwardTable ∧ TbuildCommand .tbuildF16 0x00000022 16 forwardTable ∧
  TbuildCommand .tbuildF32 0x00000042 32 forwardTable

/-- 41_table_builder.md rule R122: `tbuild.r.W` leaves REF_TABLE of POLY's low W bits in TBUF, for each width and every
polynomial. -/
def Obligations.TbuildReflectedFillsTable : Prop :=
  TbuildCommand .tbuildR8 0x00000112 8 reflectedTable ∧ TbuildCommand .tbuildR16 0x00000122 16 reflectedTable ∧
  TbuildCommand .tbuildR32 0x00000142 32 reflectedTable

/-- 41_table_builder.md rule R123: TBUF after a TBUILD depends only on the low W bits of POLY. -/
def Obligations.TbuildIsDeterministic : Prop :=
  ∀ (i : Instr) (w : Nat), (i, w) ∈ [(.tbuildF8, 8), (.tbuildF16, 16), (.tbuildF32, 32), (.tbuildR8, 8),
      (.tbuildR16, 16), (.tbuildR32, 32)] →
    ∀ s u : State, s.faulted = false → u.faulted = false → s.args.poly.setWidth w = u.args.poly.setWidth w →
      ∃ t v, exec i s = .next t ∧ exec i u = .next v ∧ t.tbuf = v.tbuf

/-- 41_table_builder.md rule R124: the relation between the two modes, at every width that holds a byte; the literal
reading without the reflected index is false at the rule's own example. -/
def Obligations.TableModesAreRelated : Prop :=
  (∀ (w : Nat), 8 ≤ w → ∀ (p : BitVec w) (b : Byte), rev (fwdEntry p b) = refEntry p (rev b)) ∧
  fwdEntry (0x04C11DB7 : BitVec 32) 1 = 0x77073096 ∧ refEntry (0x04C11DB7 : BitVec 32) 1 = 0x04C11DB7

/-- 41_table_builder.md rule R125: (a) entry 0, (b) the entries that show the polynomial, (c) linearity over XOR, (d)
the bound. -/
def Obligations.TableEntriesAreLinear : Prop :=
  ∀ (w : Nat), w = 8 ∨ w = 16 ∨ w = 32 → ∀ p : BitVec w,
    (fwdEntry p 0 = 0 ∧ refEntry p 0 = 0) ∧
    (fwdEntry p 0x80 = rev p ∧ refEntry p 1 = p) ∧
    (∀ a b : Byte, fwdEntry p (a ^^^ b) = fwdEntry p a ^^^ fwdEntry p b ∧
      refEntry p (a ^^^ b) = refEntry p a ^^^ refEntry p b) ∧
    ∀ b : Byte, (fwdEntry p b).toNat < 2 ^ w ∧ (refEntry p b).toNat < 2 ^ w

/-! ### CRC Evaluator -/

/-- 42_crc_evaluator.md rule R141: the registry holds exactly the seven keys, at every width and for every polynomial,
each table is the forward-mode table, and its entries 1 and 0x80 are those the rule lists. -/
def Obligations.RegistryHoldsSevenKeys : Prop :=
  (∀ (w : Nat) (p : BitVec w), registryHas p = true ↔ Registered w p) ∧
  (∀ (w : Nat) (p : BitVec w) (i : Byte), regTable p i = forwardTable p i) ∧
  (∀ (p e1 e80 : BitVec 16), (p, e1, e80) ∈ [(0x1021, 0x1189, 0x8408), (0xC867, 0x5A7A, 0xE613),
      (0x8005, 0xC0C1, 0xA001)] → regTable p 1 = e1 ∧ regTable p 0x80 = e80) ∧
  ∀ (p e1 e80 : BitVec 32), (p, e1, e80) ∈ [(0x04C11DB7, 0x77073096, 0xEDB88320),
      (0x1EDC6F41, 0xF26B8303, 0x82F63B78), (0xA833982B, 0x2BDDD04F, 0xD419CC15),
      (0x814141AB, 0x999A0002, 0xD5828281)] → regTable p 1 = e1 ∧ regTable p 0x80 = e80

/-- 42_crc_evaluator.md rules R142 to R145 as the EVAL commands of rule R140 run them. -/
def Obligations.EvalComputesSixSteps : Prop := EvalCommand 16 .eval16 ∧ EvalCommand 32 .eval32

/-- 42_crc_evaluator.md rule R140, the first check: an EVAL whose polynomial is no registry key at its width takes
UNSUPPORTED_POLY, whatever SIZE and the buffer are; `eval.8` always does (rule R141). -/
def Obligations.UnregisteredPolynomialFaults : Prop :=
  ∀ (ir rr : Bool) (s : State), s.faulted = false →
    Faults (.eval8 ir rr) (commandWord 3 1 false ir rr) 0x00000031 s ∧
    (¬ Registered 16 (s.args.poly.setWidth 16) →
      Faults (.eval16 ir rr) (commandWord 3 2 false ir rr) 0x00000031 s) ∧
    (¬ Registered 32 (s.args.poly.setWidth 32) →
      Faults (.eval32 ir rr) (commandWord 3 4 false ir rr) 0x00000031 s)

/-- 20_memory.md rule R57: a buffer that runs past the top of the data space is SIZE_RANGE, and the boundary is
ADDR + SIZE > 2^32; a smaller one never is. -/
def Obligations.OversizedBufferFaults : Prop :=
  ∀ (ir rr : Bool) (s : State) (i : Instr) (c : Word) (w : Nat), s.faulted = false →
    (i, c, w) ∈ [(.eval16 ir rr, commandWord 3 2 false ir rr, 16), (.eval32 ir rr, commandWord 3 4 false ir rr, 32)] →
    Registered w (s.args.poly.setWidth w) →
    (s.args.addr.toNat + s.args.size.toNat > 2 ^ 32 → Faults i c 0x00000041 s) ∧
    (s.args.addr.toNat + s.args.size.toNat ≤ 2 ^ 32 →
      ∃ t, exec i s = .next t ∧ (t.faulted = true → t.status = 0x00000051))

/-- 20_memory.md rule R52: an EVAL over a buffer with an unreadable byte takes BUFFER_ACCESS before any write; with
SIZE = 0 none does, whatever is readable. -/
def Obligations.UnreadableBufferFaults : Prop :=
  ∀ (ir rr : Bool) (s : State) (i : Instr) (c : Word) (w : Nat), s.faulted = false →
    (i, c, w) ∈ [(.eval16 ir rr, commandWord 3 2 false ir rr, 16), (.eval32 ir rr, commandWord 3 4 false ir rr, 32)] →
    Registered w (s.args.poly.setWidth w) → s.args.addr.toNat + s.args.size.toNat ≤ 2 ^ 32 →
    (∀ k, k < s.args.size.toNat → s.mem.read (s.args.addr.toNat + k) = none → Faults i c 0x00000051 s) ∧
    (s.args.size = 0 → ∃ t, exec i s = .next t ∧ t.faulted = false)

/-- 30_encoding.md rule R73, the last check: a BW that is none of 1, 2, 4 takes UNSUPPORTED_WIDTH, for each of the
fifteen rows, on its own word. -/
def Obligations.UnsupportedWidthFaults : Prop :=
  ∀ (m ir rr : Bool) (s : State), s.faulted = false →
    ∀ p ∈ [(Instr.revBw0, commandWord 1 0 false false false), (.revBw3, commandWord 1 3 false false false),
      (.revBw5, commandWord 1 5 false false false), (.revBw6, commandWord 1 6 false false false),
      (.revBw7, commandWord 1 7 false false false),
      (.tbuildBw0 m, commandWord 2 0 m false false), (.tbuildBw3 m, commandWord 2 3 m false false),
      (.tbuildBw5 m, commandWord 2 5 m false false), (.tbuildBw6 m, commandWord 2 6 m false false),
      (.tbuildBw7 m, commandWord 2 7 m false false),
      (.evalBw0 ir rr, commandWord 3 0 false ir rr), (.evalBw3 ir rr, commandWord 3 3 false ir rr),
      (.evalBw5 ir rr, commandWord 3 5 false ir rr), (.evalBw6 ir rr, commandWord 3 6 false ir rr),
      (.evalBw7 ir rr, commandWord 3 7 false ir rr)], Faults p.1 p.2 0x00000021 s

/-- 42_crc_evaluator.md rule R146: with SIZE = 0 the command reads no memory, checks no byte, and leaves steps 1 to 3
and 5 to 6; two identical ones give the same RESULT. -/
def Obligations.ZeroLengthEvalSkipsFold : Prop :=
  ∀ (ir rr : Bool) (s : State) (i : Instr) (w : Nat), s.faulted = false →
    (i, w) ∈ [(.eval16 ir rr, 16), (.eval32 ir rr, 32)] → Registered w (s.args.poly.setWidth w) → s.args.size = 0 →
    ∃ t u, exec i s = .next t ∧ exec i t = .next u ∧ u.result = t.result ∧
      t.result = (finished rr (seeded (s.args.crc.setWidth w) (s.args.init.setWidth w) ^^^ s.args.xin.setWidth w)
        (s.args.xout.setWidth w)).setWidth 32

/-- 30_encoding.md rule R72 and 42_crc_evaluator.md rules R149, R150: an EVAL depends on its operands alone: not on the
upper bits of a narrow operand, on TBUF, VAL, RESULT, or any byte outside its buffer. -/
def Obligations.EvalDependsOnOperandsOnly : Prop :=
  ∀ (ir rr : Bool) (i : Instr) (w : Nat), (i, w) ∈ [(.eval8 ir rr, 8), (.eval16 ir rr, 16), (.eval32 ir rr, 32)] →
    ∀ s u : State, s.faulted = false → u.faulted = false → SameOperands w s u →
      ∃ t v, exec i s = .next t ∧ exec i u = .next v ∧ t.faulted = v.faulted ∧
        (t.faulted = true → t.status = v.status ∧ t.fcmd = v.fcmd) ∧ (t.faulted = false → t.result = v.result)

/-- The table-driven evaluator is the bit-serial shift register of 41_table_builder.md rule R121: "the
byte-at-a-time form of exactly this bitwise right shift". RESULT of an EVAL is what feeding every bit of the buffer
through that register gives. -/
def Obligations.EvalRefinesBitSerialRegister : Prop :=
  ∀ (ir rr : Bool) (s : State) (bytes : List Byte) (i : Instr) (w : Nat), s.faulted = false →
    (i, w) ∈ [(.eval16 ir rr, 16), (.eval32 ir rr, 32)] → Registered w (s.args.poly.setWidth w) →
    s.args.addr.toNat + s.args.size.toNat ≤ 2 ^ 32 → BufferIs s bytes →
    ∃ t, exec i s = .next t ∧
      t.result = (finished rr
        ((bytes.map (entering ir)).foldl (serialByte (s.args.poly.setWidth w))
          (seeded (s.args.crc.setWidth w) (s.args.init.setWidth w) ^^^ s.args.xin.setWidth w))
        (s.args.xout.setWidth w)).setWidth 32

/-- 42_crc_evaluator.md rule R151: with CRC = 0, XIN = 0, INIT the reflected seed, IR = not refin and RR = not
refout, an EVAL computes the bitwise left-shifting CRC of the catalog's parameter model, for every seed, output mask,
pair of flags and buffer. The parameter model is general knowledge, not the source's (93_implementation_defined.md
I11). -/
def Obligations.EvalComputesCatalogModel : Prop :=
  ∀ (refin refout : Bool) (s : State) (bytes : List Byte) (i : Instr) (w : Nat) (init : BitVec w),
    s.faulted = false → (i, w) ∈ [(.eval16 (!refin) (!refout), 16), (.eval32 (!refin) (!refout), 32)] →
    Registered w (s.args.poly.setWidth w) → s.args.addr.toNat + s.args.size.toNat ≤ 2 ^ 32 → BufferIs s bytes →
    s.args.crc.setWidth w = 0 → s.args.xin.setWidth w = 0 → s.args.init.setWidth w = init.reverse →
    ∃ t, exec i s = .next t ∧
      t.result = (catalogCrc (s.args.poly.setWidth w) init (s.args.xout.setWidth w) refin refout bytes).setWidth 32

/-- 42_crc_evaluator.md rule R147: with RR = 0, XIN = XOUT and condition (iii), two chained EVALs equal one
over the whole buffer. -/
def Obligations.ChainedEvalsEqualWhole : Prop := ChunkingHolds 16 .eval16 ∧ ChunkingHolds 32 .eval32

/-- 42_crc_evaluator.md rule R148: where condition (iii) fails, the second EVAL reseeds and the split result
differs from the whole one, always. -/
def Obligations.SeamBreaksChaining : Prop := SeamDiffers 16 .eval16 ∧ SeamDiffers 32 .eval32

/-- 70_reset_and_hazards.md rule R236: a host that restores the register from RESULT chains correctly for
every configuration, RR = 1 and XIN ≠ XOUT included. -/
def Obligations.RestoredChainingEqualsWhole : Prop :=
  RestoredChainingHolds 16 .eval16 ∧ RestoredChainingHolds 32 .eval32

/-! ### Pseudo-instructions -/

/-- 30_encoding.md rule R78: the host's `crc16` and `crc32` calls, nine transactions each, return the CRC of the buffer
to the host, zero-extended, and leave the block not faulted. -/
def Obligations.CrcCallsReturnCrc : Prop :=
  ∀ (s : State) (p c a n init xin xout : Word) (ir rr : Bool) (bytes : List Byte) (rest : List Transaction),
    s.faulted = false → a.toNat + n.toNat ≤ 2 ^ 32 → bytes.length = n.toNat →
    (∀ k (h : k < bytes.length), s.memRead (a.toNat + k) = some bytes[k]) →
    (Registered 16 (p.setWidth 16) → s.pending = crc16Call s.blockBase p c a n init xin xout ir rr ++ rest →
      ∃ t, core.run 9 s = .next t ∧ t.faulted = false ∧ t.pending = rest ∧
        t.reads = s.reads ++ [(crcOf (p.setWidth 16) (c.setWidth 16) (init.setWidth 16) (xin.setWidth 16)
          (xout.setWidth 16) ir rr bytes).setWidth 32]) ∧
    (Registered 32 (p.setWidth 32) → s.pending = crc32Call s.blockBase p c a n init xin xout ir rr ++ rest →
      ∃ t, core.run 9 s = .next t ∧ t.faulted = false ∧ t.pending = rest ∧
        t.reads = s.reads ++ [crcOf p c init xin xout ir rr bytes])

/-- 30_encoding.md rule R78: the host's `reflect` call returns the reflection of the low W bits at each of its three
widths, and `build_table` leaves the table of the mode in TBUF for a byte width of 1, 2 or 4. For every other byte width
it faults by 30_encoding.md rule R73: UNSUPPORTED_WIDTH below 8, ILLEGAL_COMMAND from 8 to 15, one of the two from 16 on.
That it faults for those few byte widths whose formula gives a word that does not is the rule's own sentence; the word
they get, and so their cause, is the model's choice, log entry 11. -/
def Obligations.ReflectAndBuildCallsWork : Prop :=
  ∀ (s : State) (v : Word) (rest : List Transaction), s.faulted = false →
    (∀ w : ReflectWidth, s.pending = reflectCall s.blockBase v w ++ rest →
      ∃ t y, core.run 3 s = .next t ∧ t.reads = s.reads ++ [y] ∧ IsReflection w.bits v y ∧ t.pending = rest) ∧
    (∀ (bw : Nat) (reflect : Bool), bw ∉ [1, 2, 4] → s.pending = buildTableCall s.blockBase v bw reflect ++ rest →
      ∃ t, core.run 2 s = .next t ∧ t.pending = rest ∧ (t.status = 0x00000011 ∨ t.status = 0x00000021) ∧
        (bw < 8 → t.status = 0x00000021) ∧ (8 ≤ bw → bw < 16 → t.status = 0x00000011) ∧
        t.tbuf = s.tbuf ∧ t.result = s.result) ∧
    ∀ (w bw : Nat) (reflect : Bool), (w, bw) ∈ [(8, 1), (16, 2), (32, 4)] →
      s.pending = buildTableCall s.blockBase v bw reflect ++ rest →
      ∃ t, core.run 2 s = .next t ∧ t.pending = rest ∧ ∀ b : Byte, t.tbufWord b =
        some ((if reflect then reflectedTable (v.setWidth w) b else forwardTable (v.setWidth w) b).setWidth 32)

/-! ### Runs -/

/-- 43_host_interface.md rule R175. A start state holds the register values and data memory the program states, over
the state after reset. A run that has an end state has performed every transaction, on the same block, and where the
stated fault latch is sound and the data memory canonical the end state meets the invariant. A run in which some step has
no next state is refused. That RESULT, STATUS and FCMD can be stated and TBUF cannot is log entry 12's reading; the order
and the lists that hold the transactions are log entry 1's. -/
def Obligations.RunEndsAfterLastTransaction : Prop :=
  (∀ (base : Nat) (mem : Memory) (program : List Transaction) (args : ArgRegs) (result status fcmd : Word),
    startState base mem program args result status fcmd =
        { State.reset with args := args, result := result, status := status, fcmd := fcmd, mem := mem,
                           blockBase := base, pending := program } ∧
    ∀ t, run (startState base mem program args result status fcmd) = .next t →
      t.pending = [] ∧ t.blockBase = base ∧
      (LatchSound (startState base mem program args result status fcmd) → mem.wf → MachineInv t)) ∧
  ∀ (start u : State) (k : Nat), k < start.pending.length → core.run k start = .next u → (∀ t, step u ≠ .next t) →
    runRefused start
end

