-- ==== Sys2Proof/Laws/HostPort.lean ====
section
/-! SUPPORT. The host interface: an aligned 32-bit access at a register's offset reaches that register, and what one
item of the outside world can do. -/

namespace Sys2Proof.Machine

/-- The register map inverts its offsets (10_state.md rule R21). -/
theorem regAt_regOffset (r : HostReg) : regAt (regOffset r) = some r := by
  cases r with
  | arg a => cases a <;> rfl
  | tbuf i =>
    have h : 0x400 ≤ 0x400 + 4 * i.toNat ∧ 0x400 + 4 * i.toNat < 0x800 := by omega
    have ha : (0x400 + 4 * i.toNat) % 4 = 0 := by omega
    have hd : (0x400 + 4 * i.toNat - 0x400) / 4 = i.toNat := by omega
    rw [regOffset, regAt, if_pos h, if_pos ha, hd, BitVec.ofNat_toNat, BitVec.setWidth_eq]
  | _ => rfl

/-- Outside 0x000 to 0x02F and the table window the map has no register (20_memory.md rule R56). -/
theorem regAt_unmapped {offset : Nat} (h : (0x030 ≤ offset ∧ offset < 0x400) ∨ 0x800 ≤ offset) :
    regAt offset = none := by
  have hw : ¬(0x400 ≤ offset ∧ offset < 0x800) := by omega
  rw [regAt, if_neg hw, List.lookup_eq_none_iff]
  intro p hp
  have hk : ∀ p ∈ lowRegs, p.1 < 0x030 := by decide
  have := hk p hp
  simp only [bne_iff_ne, ne_eq]
  omega

theorem regOffset_aligned (r : HostReg) : regOffset r % 4 = 0 := by
  cases r with
  | arg a => cases a <;> rfl
  | tbuf i => simp only [regOffset]; omega
  | _ => rfl

/-- An aligned 32-bit access at a register's offset reaches the register (20_memory.md rule R55). -/
@[simp] theorem locate_regOffset (base : Nat) (r : HostReg) : locate base (base + regOffset r) .word = .ok r := by
  have h : ¬ base + regOffset r < base := by omega
  simp [locate, h, regOffset_aligned, regAt_regOffset]

@[simp] theorem perform_wr (s : State) (r : HostReg) (v : Word) : perform (wr s.blockBase r v) s = writeReg r v s := by
  simp [perform, wr]

@[simp] theorem perform_rd (s : State) (r : HostReg) : perform (rd s.blockBase r) s = hostRead r s := by
  simp [perform, rd]

theorem performNext_nil {s : State} (h : s.pending = []) : performNext s = .next s := by
  simp [performNext, h]

theorem performNext_cons {s : State} {t : Transaction} {rest : List Transaction} (h : s.pending = t :: rest) :
    performNext s = perform t (s.setPending rest) := by
  simp [performNext, h]

/-- Writing a command word that decodes runs its command; another word raises ILLEGAL_COMMAND. -/
theorem issueWord_cases (c : Word) (s : State) :
    (∃ i, decode c = .ok i ∧ issueWord c s = exec i s) ∨
    (∃ e, decode c = .error e ∧ issueWord c s = execIllegal c s) := by
  unfold issueWord
  cases decode c <;> simp

/-- Everything a step of the outside world can leave behind, when it leaves a next state: a command word was issued, an
argument register written, a write ignored, a value read, the block reset, or data memory or contention changed. -/
theorem perform_cases {t : Transaction} {s u : State} (h : perform t s = .next u) :
    (∃ c, issueWord c s = .next u) ∨ (∃ a v, u = s.setArg a v) ∨ u = s ∨ (∃ v, u = s.logRead v) ∨
    (t = .reset ∧ u = s.resetBlock) ∨ (∃ a b, t = .storeByte a b ∧ u = s.setMem (s.mem.write a.toNat b)) ∨
    (∃ a, t = .hideByte a ∧ u = s.setMem (s.mem.hide a.toNat)) ∨
    (∃ addrs, t = .contend addrs ∧ u = s.setContended addrs) := by
  cases t with
  | write addr size v =>
    simp only [perform] at h
    split at h
    · cases h
    · rename_i r _
      cases r with
      | cmd => exact .inl ⟨v, h⟩
      | arg a => exact .inr (.inl ⟨a, v, (Host.Outcome.next.inj h).symm⟩)
      | _ => exact .inr (.inr (.inl (Host.Outcome.next.inj h).symm))
  | read addr size =>
    simp only [perform] at h
    split at h
    · cases h
    · simp only [hostRead] at h
      split at h
      · rename_i v _
        exact .inr (.inr (.inr (.inl ⟨v, by simpa using h.symm⟩)))
      · cases h
  | reset =>
    simp only [perform, Host.Outcome.next.injEq] at h
    simp [← h]
  | storeByte a b =>
    simp only [perform, Host.Outcome.next.injEq] at h
    exact .inr (.inr (.inr (.inr (.inr (.inl ⟨a, b, rfl, h.symm⟩)))))
  | hideByte a =>
    simp only [perform, Host.Outcome.next.injEq] at h
    exact .inr (.inr (.inr (.inr (.inr (.inr (.inl ⟨a, rfl, h.symm⟩))))))
  | contend addrs =>
    simp only [perform, Host.Outcome.next.injEq] at h
    exact .inr (.inr (.inr (.inr (.inr (.inr (.inr ⟨addrs, rfl, h.symm⟩))))))

end Sys2Proof.Machine
end

