-- ==== Sys2Proof/Tests/Slice0.lean ====
section
/-! SUPPORT. The model's own tests. Expected values are those of spec/95_test_vectors.md (the row's name stands beside
each) or are read off 30_encoding.md rules R71 and R74; none is the model's own answer. The `witness_` theorems show
that each statement with hypotheses has an input that meets them. -/

namespace Sys2Proof.Tests

open Sys2Proof Sys2Proof.Machine Sys2Proof.Safety Sys2Proof.Claims

-- One theorem at a time: each waiting kernel check would else hold a thread, and their stacks add up.
set_option Elab.async false

/-! ### Helpers -/

/-- The state a step or a command answered. -/
def nextOf : Host.Outcome State Fault Refusal → Option State
  | .next t => some t
  | .fault _ => none
  | .refused _ => none

/-- RESULT after the host has written command word `c` to CMD of `s`, one step. -/
def resultAfter (c : Nat) (s : State) : Option Word := (nextOf (step (s.withFetchWord 32 c))).map (·.result)

/-- STATUS, FCMD and RESULT after that step. -/
def latchAfter (c : Nat) (s : State) : Option (Word × Word × Word) :=
  (nextOf (step (s.withFetchWord 32 c))).map fun t => (t.status, t.fcmd, t.result)

/-- The TBUF words at `indices` after that step. -/
def tableAfter (c : Nat) (s : State) (indices : List Byte) : Option (List (Option Word)) :=
  (nextOf (step (s.withFetchWord 32 c))).map fun t => indices.map t.tbufWord

/-- Data memory that lists `bytes` from address `a` on. -/
def bytesAt : Nat → List Byte → Memory
  | _, [] => []
  | a, b :: bs => (a, b) :: bytesAt (a + 1) bs

/-- The nine ASCII bytes "123456789". -/
def digits : List Byte := [0x31, 0x32, 0x33, 0x34, 0x35, 0x36, 0x37, 0x38, 0x39]

/-- Reset state with one argument register written. -/
def withReg (r : ArgReg) (v : Word) : State := State.reset.setArg r v

/-- Reset state set up for an EVAL of `bytes` at `a`. -/
def evalState (a p crc init xin xout : Word) (bytes : List Byte) : State :=
  { State.reset with
    args := ⟨p, crc, init, xin, xout, a, BitVec.ofNat 32 bytes.length, 0⟩
    mem := bytesAt a.toNat bytes }

/-- Reset state with POLY, ADDR and SIZE, and the one readable byte 0x31 at 0x1000 (section 5 of the vectors). -/
def rangeState (p a n : Word) : State :=
  { State.reset with args := ⟨p, 0, 0, 0, 0, a, n, 0⟩, mem := [(0x1000, 0x31)] }

/-- A block with a latched fault. -/
def faultedState : State := { State.reset with status := 0x11 }

/-! ### WellFormed refuses each ill-formed field (30_encoding.md rule R71) -/

theorem test_wellFormed_high : (CommandFields.mk 1 1 false false false false 1).wellFormed = false := by decide
theorem test_wellFormed_bit7 : (CommandFields.mk 1 1 true false false false 0).wellFormed = false := by decide
theorem test_wellFormed_op : (CommandFields.mk 0 1 false false false false 0).wellFormed = false ∧
    (CommandFields.mk 4 1 false false false false 0).wellFormed = false ∧
    (CommandFields.mk 15 1 false false false false 0).wellFormed = false := by decide
theorem test_wellFormed_mode : (CommandFields.mk 1 1 false true false false 0).wellFormed = false ∧
    (CommandFields.mk 3 1 false true false false 0).wellFormed = false := by decide
theorem test_wellFormed_reflection : (CommandFields.mk 1 1 false false true false 0).wellFormed = false ∧
    (CommandFields.mk 1 1 false false false true 0).wellFormed = false ∧
    (CommandFields.mk 2 1 false false true false 0).wellFormed = false ∧
    (CommandFields.mk 2 1 false false false true 0).wellFormed = false := by decide
theorem test_wellFormed_legal : (CommandFields.mk 2 4 false true false false 0).wellFormed = true ∧
    (CommandFields.mk 3 3 false false true true 0).wellFormed = true := by decide

/-! ### Decoding words written out from 30_encoding.md rule R74 -/

theorem test_decode_rev : decode 0b00000000000000000000000000010001 = .ok .rev8 ∧
    decode 0b00000000000000000000000000100001 = .ok .rev16 ∧
    decode 0b00000000000000000000000001000001 = .ok .rev32 := by decide +kernel
theorem test_decode_tbuild_forward : decode 0b00000000000000000000000000010010 = .ok .tbuildF8 ∧
    decode 0b00000000000000000000000000100010 = .ok .tbuildF16 ∧
    decode 0b00000000000000000000000001000010 = .ok .tbuildF32 := by decide +kernel
theorem test_decode_tbuild_reflected : decode 0b00000000000000000000000100010010 = .ok .tbuildR8 ∧
    decode 0b00000000000000000000000100100010 = .ok .tbuildR16 ∧
    decode 0b00000000000000000000000101000010 = .ok .tbuildR32 := by decide +kernel
theorem test_decode_eval : decode 0b00000000000000000000001000010011 = .ok (.eval8 true false) ∧
    decode 0b00000000000000000000010000100011 = .ok (.eval16 false true) ∧
    decode 0b00000000000000000000000001000011 = .ok (.eval32 false false) ∧
    decode 0b00000000000000000000011001000011 = .ok (.eval32 true true) := by decide +kernel
theorem test_decode_rev_bw : decode 0x00000001 = .ok .revBw0 ∧ decode 0x00000031 = .ok .revBw3 ∧
    decode 0x00000051 = .ok .revBw5 ∧ decode 0x00000061 = .ok .revBw6 ∧ decode 0x00000071 = .ok .revBw7 := by
  decide +kernel
theorem test_decode_tbuild_bw : decode 0x00000002 = .ok (.tbuildBw0 false) ∧
    decode 0x00000132 = .ok (.tbuildBw3 true) ∧ decode 0x00000152 = .ok (.tbuildBw5 true) ∧
    decode 0x00000062 = .ok (.tbuildBw6 false) ∧ decode 0x00000072 = .ok (.tbuildBw7 false) := by decide +kernel
theorem test_decode_eval_bw : decode 0x00000003 = .ok (.evalBw0 false false) ∧
    decode 0x00000233 = .ok (.evalBw3 true false) ∧ decode 0x00000453 = .ok (.evalBw5 false true) ∧
    decode 0x00000663 = .ok (.evalBw6 true true) ∧ decode 0x00000073 = .ok (.evalBw7 false false) := by decide +kernel
/-- X1 to X11 and X17 of the vectors. -/
theorem test_decode_illegal : decode 0x00000000 = .error .reservedOp ∧ decode 0x00000004 = .error .reservedOp ∧
    decode 0x0000000F = .error .reservedOp ∧ decode 0x00000091 = .error .reservedBits ∧
    decode 0x80000043 = .error .reservedBits ∧ decode 0x00000843 = .error .reservedBits ∧
    decode 0x00000111 = .error .revFlag ∧ decode 0x00000221 = .error .revFlag ∧
    decode 0x00000222 = .error .tbuildFlag ∧ decode 0x00000422 = .error .tbuildFlag ∧
    decode 0x00000143 = .error .evalMode ∧ decode 0x00008031 = .error .reservedBits := by decide +kernel
/-- The words that 30_encoding.md rule R76 gives for three spellings. -/
theorem test_spelling : (Instr.eval32 true true).mnemonic = "eval.32.ir.rr" ∧ encode (.eval32 true true) = 0x643 ∧
    (Instr.eval16 false true).mnemonic = "eval.16.rr" ∧ encode (.eval16 false true) = 0x423 ∧
    Instr.tbuildR16.mnemonic = "tbuild.r.16" ∧ encode .tbuildR16 = 0x122 := by decide +kernel

/-! ### REV (95_test_vectors.md section 2) -/

/-- RV3, RV8. -/
theorem test_rev8 : resultAfter 0x11 (withReg .val 0x0000000F) = some 0x000000F0 ∧
    resultAfter 0x11 (withReg .val 0xFFFFFF01) = some 0x00000080 := by decide +kernel
/-- RV9, RV12. -/
theorem test_rev16 : resultAfter 0x21 (withReg .val 0x00001021) = some 0x00008408 ∧
    resultAfter 0x21 (withReg .val 0x12345678) = some 0x00001E6A := by decide +kernel
/-- RV15, RV20. -/
theorem test_rev32 : resultAfter 0x41 (withReg .val 0x04C11DB7) = some 0xEDB88320 ∧
    resultAfter 0x41 (withReg .val 0x12345678) = some 0x1E6A2C48 := by decide +kernel

/-! ### TBUILD (section 3): TBUF at 0, 1, 2, 0x80, 0xFF -/

/-- TB23: bit 8 of POLY is ignored. -/
theorem test_tbuildF8 : tableAfter 0x12 (withReg .poly 0x00000107) [0, 1, 2, 0x80, 0xFF] =
    some [some 0, some 0x91, some 0xE3, some 0xE0, some 0xCF] := by decide +kernel
/-- TB21: bits [31:16] of POLY are ignored. -/
theorem test_tbuildF16 : tableAfter 0x22 (withReg .poly 0xFFFF1021) [0, 1, 2, 0x80, 0xFF] =
    some [some 0, some 0x1189, some 0x2312, some 0x8408, some 0x0F78] := by decide +kernel
/-- TB7. -/
theorem test_tbuildF32 : tableAfter 0x42 (withReg .poly 0x04C11DB7) [0, 1, 2, 0x80, 0xFF] =
    some [some 0, some 0x77073096, some 0xEE0E612C, some 0xEDB88320, some 0x2D02EF8D] := by decide +kernel
/-- TB16. -/
theorem test_tbuildR8 : tableAfter 0x112 (withReg .poly 0x00000007) [0, 1, 2, 0x80, 0xFF] =
    some [some 0, some 0x07, some 0x0E, some 0x89, some 0xF3] := by decide +kernel
/-- TB22. -/
theorem test_tbuildR16 : tableAfter 0x122 (withReg .poly 0xFFFF1021) [0, 1, 2, 0x80, 0xFF] =
    some [some 0, some 0x1021, some 0x2042, some 0x9188, some 0x1EF0] := by decide +kernel
/-- TB8. -/
theorem test_tbuildR32 : tableAfter 0x142 (withReg .poly 0x04C11DB7) [0, 1, 2, 0x80, 0xFF] =
    some [some 0, some 0x04C11DB7, some 0x09823B6E, some 0x690CE0EE, some 0xB1F740B4] := by decide +kernel

/-! ### EVAL (section 4) -/

/-- E20 and E22. -/
theorem test_eval16 : resultAfter 0x623 (evalState 0x1000 0x1021 0 0xFFFF 0 0 digits) = some 0x000029B1 ∧
    resultAfter 0x23 (evalState 0x1000 0xFFFF8005 0xABCD0000 0x1234FFFF 0x55550000 0xAAAAFFFF digits) =
      some 0x0000B4C8 := by decide +kernel
/-- Z5 and Z6, the second command each: the seam, and the same with INIT = 0. -/
theorem test_eval16_seam :
    resultAfter 0x23 (evalState 0x1002 0x8005 0 0xFFFF 0xFFFF 0xFFFF [0x31]) = some 0x00002B3E ∧
    resultAfter 0x23 (evalState 0x1002 0x8005 0 0 0xFFFF 0xFFFF [0x31]) = some 0x00006B81 := by decide +kernel
/-- E1, E2, E10, E11. -/
theorem test_eval32 :
    resultAfter 0x43 (evalState 0x1000 0x04C11DB7 0 0xFFFFFFFF 0 0xFFFFFFFF digits) = some 0xCBF43926 ∧
    resultAfter 0x643 (evalState 0x1000 0x04C11DB7 0 0xFFFFFFFF 0 0xFFFFFFFF digits) = some 0xFC891918 ∧
    resultAfter 0x243 (evalState 0x1000 0x04C11DB7 0 0 0 0 [0x01]) = some 0xEDB88320 ∧
    resultAfter 0x43 (evalState 0x1000 0x04C11DB7 0x12345678 0xFFFFFFFF 0 0xFFFFFFFF digits) = some 0x18026B2A := by
  decide +kernel
/-- E23, E26, E27, NF2: SIZE = 0. -/
theorem test_eval_empty : resultAfter 0x23 (evalState 0x1000 0x1021 0 0xFFFF 0 0xFFFF []) = some 0 ∧
    resultAfter 0x43 (evalState 0x1000 0x04C11DB7 0x12345678 0xFFFFFFFF 0 0xFFFFFFFF []) = some 0xEDCBA987 ∧
    resultAfter 0x443 (evalState 0x1000 0x04C11DB7 0x12345678 0xFFFFFFFF 0 0 []) = some 0x1E6A2C48 ∧
    latchAfter 0x43 (evalState 0xFFFFFFFF 0x04C11DB7 0 0xFFFFFFFF 0 0xFFFFFFFF []) = some (0, 0, 0) := by
  decide +kernel
/-- E12, E13, E14: the other 32-bit keys. -/
theorem test_eval_other_keys :
    resultAfter 0x43 (evalState 0x1000 0x1EDC6F41 0 0xFFFFFFFF 0 0xFFFFFFFF digits) = some 0xE3069283 ∧
    resultAfter 0x43 (evalState 0x1000 0xA833982B 0 0xFFFFFFFF 0 0xFFFFFFFF digits) = some 0x87315576 ∧
    resultAfter 0x43 (evalState 0x1000 0x814141AB 0 0xFFFFFFFF 0 0xFFFFFFFF digits) = some 0xA9CC8179 := by
  decide +kernel

/-! ### Faults (section 5): STATUS, FCMD, RESULT -/

/-- X1, X4, X17: ILLEGAL_COMMAND. -/
theorem test_fault_illegal : latchAfter 0x00000000 State.reset = some (0x11, 0x00000000, 0) ∧
    latchAfter 0x00000091 (withReg .val 1) = some (0x11, 0x00000091, 0) ∧
    latchAfter 0x00008031 State.reset = some (0x11, 0x00008031, 0) := by decide +kernel
/-- X12 and X13, and the other REV rows of rule R73. -/
theorem test_fault_rev_bw : latchAfter 0x31 (withReg .val 1) = some (0x21, 0x31, 0) ∧
    latchAfter 0x01 (withReg .val 1) = some (0x21, 0x01, 0) ∧ latchAfter 0x51 (withReg .val 1) = some (0x21, 0x51, 0) ∧
    latchAfter 0x61 (withReg .val 1) = some (0x21, 0x61, 0) ∧
    latchAfter 0x71 (withReg .val 1) = some (0x21, 0x71, 0) := by decide +kernel
/-- X14 and X15, and the other TBUILD rows of rule R73. -/
theorem test_fault_tbuild_bw : latchAfter 0x72 (withReg .poly 0x1021) = some (0x21, 0x72, 0) ∧
    latchAfter 0x152 (withReg .poly 0x1021) = some (0x21, 0x152, 0) ∧
    latchAfter 0x02 (withReg .poly 0x1021) = some (0x21, 0x02, 0) ∧
    latchAfter 0x132 (withReg .poly 0x1021) = some (0x21, 0x132, 0) ∧
    latchAfter 0x62 (withReg .poly 0x1021) = some (0x21, 0x62, 0) := by decide +kernel
/-- X16, and the other EVAL rows of rule R73. -/
theorem test_fault_eval_bw : latchAfter 0x663 (withReg .poly 0x04C11DB7) = some (0x21, 0x663, 0) ∧
    latchAfter 0x03 (withReg .poly 0x04C11DB7) = some (0x21, 0x03, 0) ∧
    latchAfter 0x233 (withReg .poly 0x04C11DB7) = some (0x21, 0x233, 0) ∧
    latchAfter 0x453 (withReg .poly 0x04C11DB7) = some (0x21, 0x453, 0) ∧
    latchAfter 0x73 (withReg .poly 0x04C11DB7) = some (0x21, 0x73, 0) := by decide +kernel
/-- X18, X19, X20, X24: UNSUPPORTED_POLY, which wins over SIZE_RANGE. -/
theorem test_fault_poly : latchAfter 0x13 (withReg .poly 0x00000007) = some (0x31, 0x13, 0) ∧
    latchAfter 0x23 (withReg .poly 0x04C11DB7) = some (0x31, 0x23, 0) ∧
    latchAfter 0x43 (withReg .poly 0x00001021) = some (0x31, 0x43, 0) ∧
    latchAfter 0x43 (rangeState 0x12345678 0xFFFFFFFF 2) = some (0x31, 0x43, 0) := by decide +kernel
/-- X22, and NF1 on the other side of the boundary. -/
theorem test_fault_size : latchAfter 0x43 (rangeState 0x04C11DB7 0xFFFFFFFF 2) = some (0x41, 0x43, 0) ∧
    latchAfter 0x43 (evalState 0xFFFFFFFF 0x04C11DB7 0 0xFFFFFFFF 0 0xFFFFFFFF [0x31]) =
      some (0, 0, 0x83DCEFB7) := by decide +kernel
/-- X23, X25 and X26: BUFFER_ACCESS. -/
theorem test_fault_buffer : latchAfter 0x43 (rangeState 0x04C11DB7 0 0xFFFFFFFF) = some (0x51, 0x43, 0) ∧
    latchAfter 0x43 (rangeState 0x04C11DB7 0x2000 1) = some (0x51, 0x43, 0) ∧
    latchAfter 0x43 (rangeState 0x04C11DB7 0x0FFF 2) = some (0x51, 0x43, 0) := by decide +kernel
/-- The faulted state (section 5): a further `rev.32` leaves RESULT, STATUS and FCMD. -/
theorem test_faulted_ignores : latchAfter 0x41 (faultedState.setArg .val 1) = some (0x11, 0, 0) := by decide +kernel
/-- A byte another agent writes is no obstacle: the command completes, and the draw counter moves. -/
theorem test_contended_completes :
    (nextOf (exec (.eval32 false false)
      { evalState 0x1000 0x04C11DB7 0 0 0 0 [0x01] with contended := [0x1000] })).map (fun t => (t.status, t.draws)) =
      some (0, 1) := by decide +kernel

/-! ### The host port -/

/-- One step on reset state with `t` as the only transaction. -/
def once (t : Transaction) : Host.Outcome State Fault Refusal := step { State.reset with pending := [t] }

/-- ADDR at offset 0x024, SIZE at 0x028 (10_state.md rule R21). -/
theorem test_wr_argument : (nextOf (once (.write 0x024 .word 0xFFFFFFFF))).map (·.args) =
    some { ArgRegs.zero with addr := 0xFFFFFFFF } ∧
    (nextOf (once (.write 0x028 .word 9))).map (·.args) = some { ArgRegs.zero with size := 9 } := by decide +kernel
/-- Reads: RESULT and CMD right after reset give 0, TBUF gives no value (10_state.md rules R28, R34). -/
theorem test_rd : (nextOf (once (.read 0x00C .word))).map (·.reads) = some [0] ∧
    (nextOf (once (.read 0x000 .word))).map (·.reads) = some [0] ∧ nextOf (once (.read 0x400 .word)) = none := by
  decide +kernel
theorem test_rd_unwritten : once (.read 0x7FC .word) = .fault .unwrittenTableWord := by rfl
theorem test_subword : once (.write 0x010 .byte 1) = .refused .subWordAccess ∧
    once (.read 0x010 .half) = .refused .subWordAccess := ⟨rfl, rfl⟩
theorem test_misaligned : once (.write 0x012 .word 1) = .refused .misalignedAccess := by rfl
theorem test_unmapped : once (.read 0x030 .word) = .refused .unmappedAccess ∧
    once (.read 0x3FC .word) = .refused .unmappedAccess ∧ once (.read 0x800 .word) = .refused .unmappedAccess :=
  ⟨rfl, rfl, rfl⟩

/-! ### The host's two questions -/

theorem test_decodeTableWord : decodeTableWord 32 0x643 = some (.eval32 true true) ∧
    decodeTableWord 32 0x91 = none := by decide +kernel

/-- From reset, `withFetchWord` makes the next step run exactly that command. -/
theorem test_step_runs_first : step (State.reset.withFetchWord 32 0x41) = exec .rev32 State.reset := by rfl


/-! ### Witnesses: inputs that meet the hypotheses of each statement, at the edges of its clauses -/

/-- Reset state with `t` as the only transaction to come, on a block at `base`. -/
def waiting (base : Nat) (t : Transaction) : State := { State.reset with blockBase := base, pending := [t] }

/-- Reset state with every TBUF word written. -/
def writtenTable : State := State.reset.setTable fun i => i.setWidth 32

theorem witness_DecodeInvertsEncode : decode 0x0000007F = .error .reservedOp ∧
    decode 0x00000613 = .ok (.eval8 true true) ∧ (0x00000613 : Word) = encode (.eval8 true true) := by decide +kernel

theorem witness_WordsDecodeExactlyByOpcodeRows :
    ((0x00000013, 0xFFFFF9FF) : Word × Word) ∈ opcodeRows ∧ (0x00000613 : Word) &&& 0xFFFFF9FF = 0x00000013 := by
  decide +kernel

theorem witness_StepRunsDecodedCommand :
    (waiting 0x1000 (.write 0x1000 .word 0x41)).pending =
      .write (waiting 0x1000 (.write 0x1000 .word 0x41)).blockBase .word 0x41 :: [] ∧
    decode 0x41 = .ok .rev32 ∧ Instr.rev32.wellFormed = true ∧ decodeTableWord 32 0x41 = some .rev32 := by
  decide +kernel

theorem witness_IdleStepChangesNothing : State.reset.pending = [] := rfl

theorem witness_ArgumentWriteStoresWholeWord : (waiting 0 (.write 0x02F .word 1)).pending =
      .write (0 + 0x02C + 3) .word 1 :: [] ∧
    (waiting 0 (.write 0x010 .byte 1)).pending = .write (0 + 0x010) .byte 1 :: [] ∧ ∀ p ∈ argOffsets,
    (waiting 0x1000 (.write (0x1000 + p.1) .word 0xFFFFFFFF)).pending =
      .write ((waiting 0x1000 (.write (0x1000 + p.1) .word 0xFFFFFFFF)).blockBase + p.1) .word 0xFFFFFFFF :: [] := by
  decide +kernel

/-- CMD and VAL, the first and the last offset of the list. -/
theorem witness_RegisterReadReturnsValue :
    ((0x000, 0) ∈ [(0x000, (0 : Word)), (0x02C, (waiting 0 (.read 0x02C .word)).args.val)]) ∧
    (waiting 0 (.read 0x000 .word)).pending = .read ((waiting 0 (.read 0x000 .word)).blockBase + 0x000) .word :: [] ∧
    (waiting 0 (.read 0x02C .word)).pending = .read ((waiting 0 (.read 0x02C .word)).blockBase + 0x02C) .word :: [] := by
  decide +kernel

/-- Words 0 and 255, written and unwritten. -/
theorem witness_TableReadNeedsWrittenWord :
    (waiting 0 (.read 0x400 .word)).pending = .read (0 + (0x400 + 4 * (0 : Byte).toNat)) .word :: [] ∧
    (waiting 0 (.read 0x7FC .word)).pending = .read (0 + (0x400 + 4 * (255 : Byte).toNat)) .word :: [] ∧
    (waiting 0 (.read 0x400 .word)).tbufWord 0 = none ∧ (waiting 0 (.read 0x7FC .word)).tbufWord 255 = none ∧
    ({ writtenTable with pending := [.read 0x400 .word] } : State).tbufWord 0 = some 0 ∧
    ({ writtenTable with pending := [.read 0x7FC .word] } : State).tbufWord 255 = some 255 := by decide +kernel

/-- STATUS, RESULT, and the first and last word of TBUF. -/
theorem witness_ReadOnlyWriteIgnored :
    (0x400 = 0x400 + 4 * (0 : Byte).toNat ∧ 0x7FC = 0x400 + 4 * (255 : Byte).toNat) ∧
    ∀ off ∈ [0x004, 0x008, 0x00C, 0x400, 0x7FC], (waiting 0x10 (.write (0x10 + off) .word 7)).pending =
      .write ((waiting 0x10 (.write (0x10 + off) .word 7)).blockBase + off) .word 7 :: [] := by decide +kernel

theorem witness_SubWordAndMisalignedAccessRefused :
    (waiting 0 (.read 0x010 .half)).pending = .read (0 + 0x010) .half :: [] ∧ AccessSize.half ≠ .word ∧
    (waiting 0 (.write 0x003 .word 1)).pending = .write (0 + 0x003) .word 1 :: [] ∧ 0x003 % 4 ≠ 0 := by decide +kernel

/-- Both ends of the first hole, and the start of the second. -/
theorem witness_UnmappedAccessRefused : ∀ off ∈ [0x030, 0x3FC, 0x800],
    (waiting 0 (.read off .word)).pending = .read ((waiting 0 (.read off .word)).blockBase + off) .word :: [] ∧
    off % 4 = 0 ∧ ((0x030 ≤ off ∧ off ≤ 0x3FC) ∨ 0x800 ≤ off) := by decide +kernel

theorem witness_HostMemoryActsAreSeen :
    (waiting 0 (.storeByte 0xFFFFFFFF 1)).pending = .storeByte 0xFFFFFFFF 1 :: [] ∧
    (waiting 0 (.storeByte 0xFFFFFFFF 1)).contended = [] ∧
    (0xFFFFFFFF : Word).toNat ∈ ({ waiting 0 (.storeByte 0xFFFFFFFF 1) with contended := [0xFFFFFFFF] } : State).contended ∧
    (waiting 0 (.hideByte 0)).pending = .hideByte 0 :: [] ∧
    (waiting 0 (.contend [0])).pending = .contend [0] :: [] := by decide +kernel

theorem witness_ResetInputRestoresBlock : (waiting 0 .reset).pending = .reset :: [] ∧ faultedState.faulted = true ∧
    exec .rev8 faultedState = .next faultedState := ⟨rfl, rfl, rfl⟩

/-- A faulted block before a command word, before a word that is none, before an argument write and before a read. -/
theorem witness_FaultedBlockIgnoresCommands :
    ({ faultedState with pending := [.write 0 .word 0x41] } : State).faulted = true ∧
    ({ faultedState with pending := [.write 0 .word 0x00] } : State).faulted = true ∧
    (0x02C, ArgReg.val) ∈ argOffsets ∧
    ({ faultedState with pending := [.write 0x02C .word 1] } : State).pending = [.write (0 + 0x02C) .word 1] ∧
    readReg .status { faultedState with pending := [.read 0x004 .word] } = some 0x11 ∧
    readReg (.tbuf 0) { faultedState with pending := [.read 0x400 .word] } = none ∧
    ({ faultedState with pending := [.read 0x400 .word] } : State).pending =
      [.read (0 + regOffset (.tbuf 0)) .word] ∧
    ({ faultedState with pending := [.read 0x004 .word] } : State).pending =
      [.read (0 + regOffset .status) .word] := by decide +kernel

/-- A step that is no reset, and the reset input. -/
theorem witness_OnlyResetClearsFault : (faultedState.faulted = true ∧ step faultedState = .next faultedState ∧
    ∀ rest, faultedState.pending ≠ .reset :: rest) ∧
    ({ faultedState with pending := [.reset] } : State).faulted = true ∧
    ({ faultedState with pending := [.reset] } : State).pending = .reset :: [] ∧
    step { faultedState with pending := [.reset] } = .next State.reset :=
  ⟨⟨rfl, rfl, fun _ h => nomatch h⟩, rfl, rfl, rfl⟩

/-- X12: a block that is not faulted, a step to a next state, and that state faulted. -/
theorem witness_FaultEntryWritesLatchOnly : ((withReg .val 1).withCommand 0x31).faulted = false ∧
    step ((withReg .val 1).withCommand 0x31) = .next { withReg .val 1 with status := 0x21, fcmd := 0x31 } ∧
    ({ withReg .val 1 with status := 0x21, fcmd := 0x31 } : State).faulted = true := ⟨rfl, rfl, rfl⟩

theorem witness_IllegalWordLatchesCauseOne : (waiting 0 (.write 0 .word 0)).faulted = false ∧
    (waiting 0 (.write 0 .word 0)).pending = .write 0 .word 0 :: [] ∧ ∀ r ∈ opcodeRows, (0 : Word) &&& r.2 ≠ r.1 :=
  ⟨rfl, rfl, List.forall_iff_forall_mem.mp (by simp [opcodeRows])⟩

theorem witness_CommandsWriteOnlyBlockOutputs :
    exec .rev8 State.reset = .next (runRev 8 State.reset) := rfl

/-- One command that faults and one that completes. -/
theorem witness_FaultingCommandWritesOnlyLatch : State.reset.faulted = false ∧
    exec .revBw0 State.reset = .next (State.reset.takeFault .unsupportedWidth 0x01) ∧
    (State.reset.takeFault .unsupportedWidth 0x01).faulted = true ∧
    exec .rev8 State.reset = .next (runRev 8 State.reset) ∧ (runRev 8 State.reset).faulted = false :=
  ⟨rfl, rfl, rfl, rfl, rfl⟩

/-- A command that changes TBUF and one that changes RESULT. -/
theorem witness_ResultAndTableHaveTheirOwnWriters :
    (exec .tbuildF8 State.reset = .next (runTbuildF 8 State.reset) ∧
      (runTbuildF 8 State.reset).tbufWord 0 ≠ State.reset.tbufWord 0) ∧
    exec .rev8 (withReg .val 1) = .next (runRev 8 (withReg .val 1)) ∧
      (runRev 8 (withReg .val 1)).result ≠ (withReg .val 1).result :=
  ⟨⟨rfl, by decide +kernel⟩, rfl, by decide +kernel⟩

/-- The invariant holds in a block whose latch is set, with TBUF written and data memory listed, and a step goes on from
there. -/
theorem witness_StepKeepsMachineInvariant :
    MachineInv ({ writtenTable with status := 0x21, fcmd := 0x31, mem := [(5, 1), (9, 2)] } : State) ∧
    step ({ writtenTable with status := 0x21, fcmd := 0x31, mem := [(5, 1), (9, 2)] } : State) =
      .next { writtenTable with status := 0x21, fcmd := 0x31, mem := [(5, 1), (9, 2)] } :=
  ⟨⟨.inr ⟨.unsupportedWidth, by decide +kernel, by decide +kernel⟩,
    .inr fun i => by simp [State.tbufWord, writtenTable, State.setTable, tableOf],
    by decide⟩, rfl⟩

/-- A clear latch, and one of each cause. -/
theorem witness_SoundLatchHasLegalStatusFields : LatchSound State.reset ∧
    ∀ p ∈ [(Cause.illegalCommand, (0x00 : Word)), (.unsupportedWidth, 0x31), (.unsupportedPoly, 0x13),
      (.sizeRange, 0x43), (.bufferAccess, 0x23)],
      LatchSound { State.reset with status := p.1.statusWord, fcmd := p.2 } := by
  refine ⟨.inl ⟨rfl, rfl⟩, fun p hp => .inr ⟨p.1, rfl, ?_⟩⟩
  revert p
  decide +kernel

/-- The premise of the REV, TBUILD, width-fault and reflection statements. -/
theorem witness_not_faulted : State.reset.faulted = false := rfl

theorem witness_ReflectionIsInvolution : ∀ p ∈ [(Instr.rev8, 8), (.rev16, 16), (.rev32, 32)],
    p ∈ [(Instr.rev8, 8), (.rev16, 16), (.rev32, 32)] ∧ State.reset.faulted = false := by decide +kernel

/-- Two polynomials that differ above bit 15. -/
theorem witness_TbuildIsDeterministic :
    (Instr.tbuildR16, 16) ∈ [(Instr.tbuildF8, 8), (.tbuildF16, 16), (.tbuildF32, 32), (.tbuildR8, 8), (.tbuildR16, 16),
      (.tbuildR32, 32)] ∧
    (withReg .poly 0xFFFF1021).faulted = false ∧ (withReg .poly 0x00001021).faulted = false ∧
    (withReg .poly 0xFFFF1021).args.poly.setWidth 16 = (withReg .poly 0x00001021).args.poly.setWidth 16 := by
  decide +kernel

/-- The premises of the statements on table entries, at the least and the greatest width. -/
theorem witness_table_widths : 8 ≤ 8 ∧ 8 ≤ 32 ∧ (8 = 8 ∨ 8 = 16 ∨ 8 = 32) ∧ (32 = 8 ∨ 32 = 16 ∨ 32 = 32) := by decide

theorem witness_RegistryHoldsSevenKeys :
    ((0x8005, 0xC0C1, 0xA001) : BitVec 16 × BitVec 16 × BitVec 16) ∈
      [((0x1021 : BitVec 16), (0x1189 : BitVec 16), (0x8408 : BitVec 16)), (0xC867, 0x5A7A, 0xE613),
        (0x8005, 0xC0C1, 0xA001)] := by decide

/-- An EVAL that passes its checks: key (0x8005, 16), and the one byte at the very top of the data space. -/
theorem witness_EvalComputesSixSteps_16 :
    (evalState 0xFFFFFFFF 0x8005 0 0 0 0 [0x31]).faulted = false ∧
    Registered 16 ((evalState 0xFFFFFFFF 0x8005 0 0 0 0 [0x31]).args.poly.setWidth 16) ∧
    (evalState 0xFFFFFFFF 0x8005 0 0 0 0 [0x31]).args.addr.toNat +
      (evalState 0xFFFFFFFF 0x8005 0 0 0 0 [0x31]).args.size.toNat ≤ 2 ^ 32 ∧
    BufferIs (evalState 0xFFFFFFFF 0x8005 0 0 0 0 [0x31]) [0x31] := by
  refine ⟨rfl, .inl ⟨rfl, by decide⟩, by decide, by decide +kernel, ?_⟩
  decide +kernel

/-- The same for key (0x04C11DB7, 32) and "123456789". -/
theorem witness_EvalComputesSixSteps_32 :
    (evalState 0x1000 0x04C11DB7 0 0 0 0 digits).faulted = false ∧
    Registered 32 ((evalState 0x1000 0x04C11DB7 0 0 0 0 digits).args.poly.setWidth 32) ∧
    (evalState 0x1000 0x04C11DB7 0 0 0 0 digits).args.addr.toNat +
      (evalState 0x1000 0x04C11DB7 0 0 0 0 digits).args.size.toNat ≤ 2 ^ 32 ∧
    BufferIs (evalState 0x1000 0x04C11DB7 0 0 0 0 digits) digits := by
  refine ⟨rfl, .inr ⟨rfl, by decide⟩, by decide, by decide +kernel, ?_⟩
  decide +kernel

/-- The premises of the refinement statement are those of the six steps, with the width drawn from the list. -/
theorem witness_EvalRefinesBitSerialRegister :
    (Instr.eval16 true true, 16) ∈ [(Instr.eval16 true true, 16), (.eval32 true true, 32)] ∧
    BufferIs (evalState 0x1000 0x8005 0 0 0 0 []) [] := by
  refine ⟨by decide, rfl, ?_⟩
  decide +kernel

/-- CRC-16/RIELLO (section 6): a seed that is not symmetric, INIT = rev_16(0xB2AA) = 0x554D. -/
theorem witness_EvalComputesCatalogModel :
    (evalState 0x1000 0x1021 0 0x554D 0 0 digits).args.crc.setWidth 16 = (0 : BitVec 16) ∧
    (evalState 0x1000 0x1021 0 0x554D 0 0 digits).args.xin.setWidth 16 = (0 : BitVec 16) ∧
    (evalState 0x1000 0x1021 0 0x554D 0 0 digits).args.init.setWidth 16 = (0xB2AA : BitVec 16).reverse ∧
    Registered 16 ((evalState 0x1000 0x1021 0 0x554D 0 0 digits).args.poly.setWidth 16) ∧
    BufferIs (evalState 0x1000 0x1021 0 0x554D 0 0 digits) digits := by
  refine ⟨by decide, by decide, by decide +kernel, .inl ⟨rfl, by decide⟩, by decide +kernel, ?_⟩
  decide +kernel

/-- A polynomial registered at width 16 only, and one registered at width 32 only. -/
theorem witness_UnregisteredPolynomialFaults :
    ¬ Registered 16 ((withReg .poly 0x04C11DB7).args.poly.setWidth 16) ∧
    ¬ Registered 32 ((withReg .poly 0x00001021).args.poly.setWidth 32) ∧ (withReg .poly 0x1021).faulted = false := by
  refine ⟨?_, ?_, rfl⟩ <;> rintro (⟨h, k⟩ | ⟨h, k⟩) <;> first | exact absurd h (by decide) | exact absurd k (by decide)

/-- Both sides of the boundary: ADDR + SIZE = 2^32 + 1 and ADDR + SIZE = 2^32. -/
theorem witness_OversizedBufferFaults :
    Registered 32 ((rangeState 0x04C11DB7 0xFFFFFFFF 2).args.poly.setWidth 32) ∧
    (rangeState 0x04C11DB7 0xFFFFFFFF 2).args.addr.toNat + (rangeState 0x04C11DB7 0xFFFFFFFF 2).args.size.toNat > 2 ^ 32 ∧
    Registered 32 ((rangeState 0x04C11DB7 0xFFFFFFFF 1).args.poly.setWidth 32) ∧
    (rangeState 0x04C11DB7 0xFFFFFFFF 1).args.addr.toNat + (rangeState 0x04C11DB7 0xFFFFFFFF 1).args.size.toNat ≤ 2 ^ 32 :=
  ⟨.inr ⟨rfl, by decide⟩, by decide, .inr ⟨rfl, by decide⟩, by decide⟩

/-- X26: the first byte is not readable, the second is. And NF3: SIZE = 0, nothing readable at ADDR. -/
theorem witness_UnreadableBufferFaults : (rangeState 0x04C11DB7 0x5000 0).args.size = 0 ∧
    (rangeState 0x04C11DB7 0x5000 0).args.addr.toNat + (rangeState 0x04C11DB7 0x5000 0).args.size.toNat ≤ 2 ^ 32 ∧
    Registered 32 ((rangeState 0x04C11DB7 0x0FFF 2).args.poly.setWidth 32) ∧
    (rangeState 0x04C11DB7 0x0FFF 2).args.addr.toNat + (rangeState 0x04C11DB7 0x0FFF 2).args.size.toNat ≤ 2 ^ 32 ∧
    0 < (rangeState 0x04C11DB7 0x0FFF 2).args.size.toNat ∧
    (rangeState 0x04C11DB7 0x0FFF 2).mem.read ((rangeState 0x04C11DB7 0x0FFF 2).args.addr.toNat + 0) = none :=
  ⟨rfl, by decide, .inr ⟨rfl, by decide⟩, by decide, by decide, by decide⟩

theorem witness_ZeroLengthEvalSkipsFold :
    Registered 16 ((evalState 0x5000 0x1021 1 2 3 4 []).args.poly.setWidth 16) ∧
    (evalState 0x5000 0x1021 1 2 3 4 []).args.size = 0 ∧ (evalState 0x5000 0x1021 1 2 3 4 []).faulted = false :=
  ⟨.inl ⟨rfl, by decide⟩, rfl, rfl⟩

/-- Two states that differ in the upper half of CRC, in TBUF, VAL and RESULT, and in a byte outside the buffer. -/
theorem witness_EvalDependsOnOperandsOnly :
    SameOperands 16 (evalState 0x1000 0x8005 0xABCD0001 0 0 0 [0x31])
      { evalState 0x1000 0x8005 0x00000001 0 0 0 [0x31] with
        tbuf := writtenTable.tbuf, result := 7, mem := [(0x1000, 0x31), (0x1001, 9)] } := by
  refine ⟨by decide, by decide, by decide, by decide, by decide, rfl, rfl, ?_⟩
  decide +kernel

/-- Z1: "1234" and "56789" with XIN = XOUT, and condition (iii) by INIT = 0; and by a nonzero first RESULT. -/
theorem witness_ChainedEvalsEqualWhole :
    ChunkSetting 32 (evalState 0x1000 0x04C11DB7 0 0 0xFFFFFFFF 0xFFFFFFFF digits) 4 5 ∧
    (0xFFFFFFFF : Word).setWidth 32 = (0xFFFFFFFF : Word).setWidth 32 ∧ (0 : Word).setWidth 32 = (0 : BitVec 32) ∧
    resultAfter 0x43 (evalState 0x1000 0x04C11DB7 0 0 0xFFFFFFFF 0xFFFFFFFF [0x31, 0x32, 0x33, 0x34]) =
      some 0x9BE3E0A3 := by
  refine ⟨⟨rfl, .inr ⟨rfl, by decide⟩, by decide, by decide, by decide +kernel, by decide +kernel⟩, rfl, rfl, ?_⟩
  decide +kernel

/-- Z4: both flags set, XIN = 0 and XOUT = 0xFFFFFFFF. -/
theorem witness_RestoredChainingEqualsWhole :
    ChunkSetting 32 (evalState 0x1000 0x04C11DB7 0 0xFFFFFFFF 0 0xFFFFFFFF digits) 4 5 :=
  ⟨rfl, .inr ⟨rfl, by decide⟩, by decide, by decide, by decide +kernel, by decide +kernel⟩

/-- Z5: the first RESULT over 57 15 is 0, and INIT = 0xFFFF on the second command. -/
theorem witness_SeamBreaksChaining :
    ChunkSetting 16 (evalState 0x1000 0x8005 0 0xFFFF 0xFFFF 0xFFFF [0x57, 0x15, 0x31]) 2 1 ∧
    (0xFFFF : Word).setWidth 16 ≠ (0 : BitVec 16) ∧
    resultAfter 0x23 (evalState 0x1000 0x8005 0 0xFFFF 0xFFFF 0xFFFF [0x57, 0x15]) = some 0 := by
  refine ⟨⟨rfl, .inl ⟨rfl, by decide⟩, by decide, by decide, by decide +kernel, by decide +kernel⟩,
    by decide, by decide +kernel⟩

/-- The host about to call `crc32` over "123456789" (program P1), on a block at 0x40000000. -/
def crcHost : State :=
  { State.reset with
    blockBase := 0x40000000
    mem := bytesAt 0x1000 digits
    pending := crc32Call 0x40000000 0x04C11DB7 0 0x1000 9 }

theorem witness_CrcCallsReturnCrc : crcHost.faulted = false ∧ (0x1000 : Word).toNat + (9 : Word).toNat ≤ 2 ^ 32 ∧
    digits.length = (9 : Word).toNat ∧
    (∀ k (h : k < digits.length), crcHost.memRead ((0x1000 : Word).toNat + k) = some digits[k]) ∧
    Registered 32 ((0x04C11DB7 : Word).setWidth 32) ∧
    crcHost.pending = crc32Call crcHost.blockBase 0x04C11DB7 0 0x1000 9 0xFFFFFFFF 0 0xFFFFFFFF false false ++ [] := by
  refine ⟨rfl, by decide, rfl, ?_, .inr ⟨rfl, by decide⟩, by decide +kernel⟩
  decide +kernel

/-- The command words of `reflect` at its three widths (40_bit_reflector.md rule R101). -/
theorem test_reflectCall : reflectCall 0 5 .w8 = [.write 0x02C .word 5, .write 0 .word 0x11, .read 0x00C .word] ∧
    reflectCall 0 5 .w16 = [.write 0x02C .word 5, .write 0 .word 0x21, .read 0x00C .word] ∧
    reflectCall 0 5 .w32 = [.write 0x02C .word 5, .write 0 .word 0x41, .read 0x00C .word] := by decide +kernel

theorem witness_ReflectAndBuildCallsWork :
    ({ State.reset with pending := reflectCall 0 0x31 .w8 } : State).pending = reflectCall 0 0x31 .w8 ++ [] ∧
    (∀ bw ∈ [0, 7, 8, 15, 17], bw ∉ [1, 2, 4] ∧
      ({ State.reset with pending := buildTableCall 0 0x1021 bw true } : State).pending =
        buildTableCall 0 0x1021 bw true ++ []) ∧
    ({ State.reset with pending := buildTableCall 0 0x1021 2 true } : State).pending =
      buildTableCall 0 0x1021 2 true ++ [] ∧
    (16, 2) ∈ [(8, 1), (16, 2), (32, 4)] := by decide +kernel

/-- The words of `build_table` by the formula of 30_encoding.md rule R78: byte widths 4 and 8, and 17, whose formula gives
`tbuild.r.8` and which must fault. -/
theorem test_buildCommand : buildCommand 4 false = 0x42 ∧ buildCommand 2 true = 0x122 ∧ buildCommand 8 false = 0x82 ∧
    decode (buildCommand 17 false) = .error .reservedBits ∧ decode (buildCommand 20 true) = .error .reservedBits := by
  decide +kernel

/-- A program that states RESULT, and reads it as its only transaction. -/
theorem test_startState_result :
    (nextOf (run (startState 0x10 [] [.read 0x1C .word] (result := 7)))).map (fun t => (t.reads, t.pending)) =
      some ([7], []) := by decide +kernel

/-- A run with an end state from a sound latch that is set, and one whose only transaction is refused. -/
theorem witness_RunEndsAfterLastTransaction :
    LatchSound (startState 0 [(5, 1)] [] (status := 0x21) (fcmd := 0x31)) ∧ Memory.wf [(5, (1 : Byte))] ∧
    run (startState 0 [(5, 1)] [] (status := 0x21) (fcmd := 0x31)) =
      .next (startState 0 [(5, 1)] [] (status := 0x21) (fcmd := 0x31)) ∧
    0 < (startState 0 [] [.read 0x800 .word]).pending.length ∧
    core.run 0 (startState 0 [] [.read 0x800 .word]) = .next (startState 0 [] [.read 0x800 .word]) ∧
    step (startState 0 [] [.read 0x800 .word]) = .refused .unmappedAccess :=
  ⟨.inr ⟨.unsupportedWidth, rfl, by decide +kernel⟩, by decide, rfl, by decide, rfl, rfl⟩

end Sys2Proof.Tests
end

section
/-! PROOFS. The REV commands against the reflection of 00_scope.md rule R10. The argument is about one width at a time:
bit W-1-i of `rev_W` is bit i, zero-extension adds only 0 bits, and the command writes RESULT alone. -/

namespace Sys2Proof.Proofs

open Sys2Proof.Machine Sys2Proof.Claims

/-- `rev_W` exchanges bits i and W-1-i (00_scope.md rule R10). -/
theorem rev_getLsbD_mirror {w i : Nat} (v : BitVec w) (hi : i < w) : (rev v).getLsbD (w - 1 - i) = v.getLsbD i := by
  have hlt : w - 1 - i < w := by omega
  have hback : w - 1 - (w - 1 - i) = i := by omega
  rw [rev_eq_reverse, BitVec.getLsbD_reverse, BitVec.getMsbD, hback]
  simp [hlt]

/-- The word that a REV command writes is the reflection of the low W bits of its operand. -/
theorem isReflection_setWidth_rev {w : Nat} (hw : w ≤ 32) (x : Word) :
    IsReflection w x ((rev (x.setWidth w)).setWidth 32) := by
  constructor
  · intro i hi
    have h32 : w - 1 - i < 32 := by omega
    rw [BitVec.getLsbD_setWidth, rev_getLsbD_mirror _ hi, BitVec.getLsbD_setWidth]
    simp [h32, hi]
  · intro i hi
    rw [BitVec.getLsbD_setWidth, BitVec.getLsbD_of_ge _ i hi, Bool.and_false]

/-- A command whose change is `runRev w` is a REV command of width W (40_bit_reflector.md rule R101). -/
theorem revCommand_of_commandRun {i : Instr} {c : Word} {w : Nat} (hw : w ≤ 32) (hc : encode i = c)
    (hrun : commandRun i = runRev w) : RevCommand i c w := by
  refine ⟨hc, fun s hs => ⟨runRev w s, ?_, isReflection_setWidth_rev hw s.args.val, rfl⟩⟩
  rw [exec_eq_issue, hrun, issue_of_not_faulted hs]

/-- Settles O28: each of the three commands makes the change `runRev` at its width. -/
theorem revCommandsReflectValue : Obligations.RevCommandsReflectValue :=
  ⟨revCommand_of_commandRun (by decide) (by decide) rfl, revCommand_of_commandRun (by decide) (by decide) rfl,
    revCommand_of_commandRun (by decide) (by decide) rfl⟩

end Sys2Proof.Proofs
end

section
/-! PROOFS. What a command can leave behind, said once with the commands each effect belongs to (10_state.md rule R36):
RESULT, TBUF, or the fault latch with the command's own word under a cause that word can raise. The statements about
single commands (rules R25, R29, R36) read it off. -/

namespace Sys2Proof.Proofs

open Sys2Proof.Machine Sys2Proof.Safety Sys2Proof.Claims

/-- A command's word decodes to the command (30_encoding.md rules R73, R74). -/
theorem decode_encode (i : Instr) : decode (encode i) = .ok i := by
  cases i with
  | tbuildBw0 m | tbuildBw3 m | tbuildBw5 m | tbuildBw6 m | tbuildBw7 m => cases m <;> rfl
  | eval8 ir rr | eval16 ir rr | eval32 ir rr | evalBw0 ir rr | evalBw3 ir rr | evalBw5 ir rr | evalBw6 ir rr
  | evalBw7 ir rr => cases ir <;> cases rr <;> rfl
  | _ => rfl

/-- The registry has no key of width 8, so the checks of an 8-bit evaluation stop at the first
(42_crc_evaluator.md rule R141). -/
theorem evalChecks_width8 (s : State) : evalChecks 8 s = .error .unsupportedPoly := by
  have hkey : registryHas (s.operand 8 .poly) = false := by simp [registryHas, registryKeys]
  simp [evalChecks, hkey]

/-- The causes with which an evaluation's checks can stop (42_crc_evaluator.md rule R140). -/
theorem evalChecks_error {w : Nat} {s : State} {k : Cause} (h : evalChecks w s = .error k) :
    k = .unsupportedPoly ∨ k = .sizeRange ∨ k = .bufferAccess := by
  rcases evalChecks_cases w s with ⟨e, -⟩ | ⟨e, -⟩ | ⟨e, -⟩ | ⟨bytes, e, -⟩ <;>
    cases h.symm.trans e
  · exact .inl rfl
  · exact .inr (.inl rfl)
  · exact .inr (.inr rfl)

/-- What command `i` can make of a block that is not faulted: each case names the commands it belongs to. -/
inductive CommandEffect (i : Instr) (s : State) : State → Prop where
  /-- RESULT written by a REV -/
  | reflected (hi : writesResult i) (v : Word) : CommandEffect i s (s.setResult v)
  /-- RESULT written by an EVAL, which also moves the draw counter on -/
  | evaluated (hi : writesResult i) (v : Word) : CommandEffect i s (s.setResult v).nextDraw
  /-- all of TBUF written -/
  | built (hi : isTbuild i) (entry : Byte → Word) : CommandEffect i s (s.setTable entry)
  /-- a fault taken on the command's own word -/
  | faulted (k : Cause) (hk : raisedBy k (encode i) = true) : CommandEffect i s (s.takeFault k (encode i))

/-- An EVAL that can raise each of the three causes of rule R140 has one of the effects. -/
theorem runEval_effect {i : Instr} (hi : writesResult i) (hpoly : raisedBy .unsupportedPoly (encode i) = true)
    (hsize : raisedBy .sizeRange (encode i) = true) (hbuf : raisedBy .bufferAccess (encode i) = true)
    (w : Nat) (ir rr : Bool) (s : State) : CommandEffect i s (runEval w ir rr (encode i) s) := by
  rcases runEval_cases w ir rr (encode i) s with ⟨k, he, hrun⟩ | ⟨bytes, -, hrun⟩ <;> rw [hrun]
  · refine .faulted k ?_
    obtain rfl | rfl | rfl := evalChecks_error he
    exacts [hpoly, hsize, hbuf]
  · exact .evaluated hi _

/-- Every command's change is one of the effects (10_state.md rule R36). -/
theorem commandRun_effect (i : Instr) (s : State) : CommandEffect i s (commandRun i s) := by
  cases i with
  | rev8 | rev16 | rev32 => exact .reflected (by simp [writesResult]) _
  | tbuildF8 | tbuildF16 | tbuildF32 | tbuildR8 | tbuildR16 | tbuildR32 => exact .built (by simp [isTbuild]) _
  | eval8 ir rr =>
    rw [show commandRun (.eval8 ir rr) s = s.takeFault .unsupportedPoly (encode (.eval8 ir rr)) by
      simp [commandRun, runEval, evalChecks_width8]]
    exact .faulted _ (by simp [raisedBy, decode_encode])
  | eval16 ir rr | eval32 ir rr =>
    apply runEval_effect <;> simp [writesResult, raisedBy, decode_encode]
  | _ => exact .faulted .unsupportedWidth (by simp [raisedBy, decode_encode])

/-- Everything `exec` can answer: a faulted block ignores the command (60_exceptions.md rule R205), another shows one of
the command's effects. -/
theorem exec_effect {i : Instr} {s t : State} (h : exec i s = .next t) :
    (s.faulted = true ∧ t = s) ∨ (s.faulted = false ∧ CommandEffect i s t) := by
  rw [exec_eq_issue] at h
  exact (issue_cases h).imp_right fun ⟨hf, ht⟩ => ⟨hf, ht ▸ commandRun_effect i s⟩

/-- Settles O22: of the effects only the fault sets FAULTED, and only it writes STATUS and FCMD. -/
theorem faultingCommandWritesOnlyLatch : Obligations.FaultingCommandWritesOnlyLatch := by
  intro i s t hs h
  obtain ⟨hf, -⟩ | ⟨-, he⟩ := exec_effect h
  · simp [hs] at hf
  · cases he with
    | faulted k _ => exact ⟨fun _ => rfl, fun ht => by simp at ht⟩
    | _ => exact ⟨fun ht => by simp [hs] at ht, fun _ => ⟨rfl, rfl⟩⟩

/-- Settles O23: each effect other than a fault names its commands, and leaves the other output as it was. -/
theorem resultAndTableHaveTheirOwnWriters : Obligations.ResultAndTableHaveTheirOwnWriters := by
  intro i s t h
  obtain ⟨-, rfl⟩ | ⟨-, he⟩ := exec_effect h
  · exact ⟨fun hne => absurd rfl hne, fun hne => absurd rfl hne⟩
  · cases he with
    | reflected hi _ | evaluated hi _ => exact ⟨fun hne => absurd rfl hne, fun _ => hi⟩
    | built hi _ => exact ⟨fun _ => hi, fun hne => absurd rfl hne⟩
    | faulted _ _ => exact ⟨fun hne => absurd rfl hne, fun hne => absurd rfl hne⟩

end Sys2Proof.Proofs
end

section
/-! PROOFS. The machine invariant: it speaks of STATUS, FCMD, TBUF and data memory, so each kind of change of the state
keeps it for a reason of its own, and a step is one of these changes. -/

namespace Sys2Proof.Proofs

open Sys2Proof.Machine Sys2Proof.Safety Sys2Proof.Claims

section Changes

variable {s : State} (hs : MachineInv s)
include hs

/-- The invariant speaks of four fields only. -/
theorem machineInv_of_same_fields {t : State} (hstatus : t.status = s.status) (hfcmd : t.fcmd = s.fcmd)
    (htbuf : t.tbuf = s.tbuf) (hmem : t.mem = s.mem) : MachineInv t where
  latch := by simpa only [LatchSound, hstatus, hfcmd] using hs.latch
  table := by simpa only [TableUniform, State.tbufWord, htbuf] using hs.table
  memory := hmem ▸ hs.memory

theorem machineInv_setTable (entry : Byte → Word) : MachineInv (s.setTable entry) where
  latch := hs.latch
  table := .inr fun i => by rw [setTable_tbufWord, Option.isSome_some]
  memory := hs.memory

theorem machineInv_takeFault {k : Cause} {c : Word} (hk : raisedBy k c = true) : MachineInv (s.takeFault k c) where
  latch := .inr ⟨k, rfl, hk⟩
  table := hs.table
  memory := hs.memory

theorem machineInv_resetBlock : MachineInv s.resetBlock where
  latch := .inl ⟨rfl, rfl⟩
  table := .inl (resetBlock_tbufWord s)
  memory := hs.memory

theorem machineInv_setMem {m : Memory} (hm : m.wf) : MachineInv (s.setMem m) where
  latch := hs.latch
  table := hs.table
  memory := hm

theorem exec_keeps_machineInv {i : Instr} {t : State} (h : exec i s = .next t) : MachineInv t := by
  obtain ⟨-, rfl⟩ | ⟨-, he⟩ := exec_effect h
  · exact hs
  · cases he with
    | built _ entry => exact machineInv_setTable hs entry
    | faulted k hk => exact machineInv_takeFault hs hk
    | reflected _ _ | evaluated _ _ => exact machineInv_of_same_fields hs rfl rfl rfl rfl

/-- A word that is no command raises ILLEGAL_COMMAND, the cause that such a word can raise. -/
theorem execIllegal_keeps_machineInv {c : Word} {e : Illegal} (hc : decode c = .error e) {t : State}
    (h : execIllegal c s = .next t) : MachineInv t := by
  obtain ⟨-, rfl⟩ | ⟨-, rfl⟩ := issue_cases h
  · exact hs
  · exact machineInv_takeFault hs (by simp [raisedBy, hc])

theorem issueWord_keeps_machineInv {c : Word} {t : State} (h : issueWord c s = .next t) : MachineInv t := by
  obtain ⟨i, -, hi⟩ | ⟨e, hc, he⟩ := issueWord_cases c s
  · exact exec_keeps_machineInv hs (hi ▸ h)
  · exact execIllegal_keeps_machineInv hs hc (he ▸ h)

theorem perform_keeps_machineInv {x : Transaction} {t : State} (h : perform x s = .next t) : MachineInv t := by
  obtain ⟨c, hc⟩ | ⟨a, v, rfl⟩ | rfl | ⟨v, rfl⟩ | ⟨-, rfl⟩ | ⟨a, b, -, rfl⟩ | ⟨a, -, rfl⟩ | ⟨addrs, -, rfl⟩ :=
    perform_cases h
  · exact issueWord_keeps_machineInv hs hc
  · exact machineInv_of_same_fields hs rfl rfl rfl rfl
  · exact hs
  · exact machineInv_of_same_fields hs rfl rfl rfl rfl
  · exact machineInv_resetBlock hs
  · exact machineInv_setMem hs (memory_write_wf hs.memory a.isLt b)
  · exact machineInv_setMem hs (memory_hide_wf hs.memory a.toNat)
  · exact machineInv_of_same_fields hs rfl rfl rfl rfl

end Changes

/-- Settles O26: an idle step changes nothing, another performs one transaction, each of which keeps the invariant. -/
theorem stepKeepsMachineInvariant : Obligations.StepKeepsMachineInvariant := by
  intro s t hs h
  cases hp : s.pending with
  | nil =>
    obtain rfl : s = t := Host.Outcome.next.inj ((performNext_nil hp).symm.trans h)
    exact hs
  | cons x rest =>
    have hrest : MachineInv (s.setPending rest) := machineInv_of_same_fields hs rfl rfl rfl rfl
    exact perform_keeps_machineInv hrest ((performNext_cons hp).symm.trans h)

end Sys2Proof.Proofs
end

section
/-! PROOFS. The fields of STATUS under a sound latch (10_state.md rule R26): read off the five words that a fault can
leave there. -/

namespace Sys2Proof.Proofs

open Sys2Proof.Machine Sys2Proof.Safety

/-- The CAUSE field of a fault's STATUS word is the cause's code (60_exceptions.md rule R203). -/
theorem statusWord_cause (k : Cause) : k.statusWord.extractLsb' 4 4 = k.code := by
  cases k <;> rfl

/-- The cause codes are 1 to 5 (60_exceptions.md rule R201). -/
theorem cause_code_bounds (k : Cause) : 1 ≤ k.code.toNat ∧ k.code.toNat ≤ 5 := by
  cases k <;> decide

/-- Outside FAULTED and CAUSE a fault's STATUS word is 0: the code occupies bits [7:4] alone. -/
theorem statusWord_reserved (k : Cause) {n : Nat} (hn : (1 ≤ n ∧ n ≤ 3) ∨ (8 ≤ n ∧ n ≤ 31)) :
    k.statusWord.getLsbD n = false := by
  have h0 : n ≠ 0 := by omega
  rw [Cause.statusWord, BitVec.getLsbD_or, BitVec.getLsbD_shiftLeft, BitVec.getLsbD_setWidth]
  obtain hlow | hhigh := hn
  · have h4 : n < 4 := by omega
    simp [h0, h4]
  · have h4 : 4 ≤ n - 4 := by omega
    simp [h0, BitVec.getLsbD_of_ge _ _ h4]

/-- Settles O27: a clear STATUS is 0 in every field, and the STATUS word of a fault has FAULTED 1, the cause's code
and nothing else. -/
theorem soundLatchHasLegalStatusFields : Obligations.SoundLatchHasLegalStatusFields := by
  intro s hs
  obtain ⟨hclear, -⟩ | ⟨k, hk, -⟩ := hs
  · simp [State.faulted, State.cause, hclear]
  · have hfaulted : s.faulted = true := by rw [State.faulted, hk]; exact takeFault_faulted s k 0
    have hcause : s.cause = k.code := by rw [State.cause, hk, statusWord_cause]
    obtain ⟨hpos, hle⟩ := cause_code_bounds k
    have hne : k.code ≠ 0 := fun h0 => by simp [h0] at hpos
    rw [hfaulted, hcause, hk]
    exact ⟨by simpa using hne, hle, fun n hn => statusWord_reserved k hn⟩

end Sys2Proof.Proofs
end

section
/-! PROOFS. Host reads of the registers (43_host_interface.md rule R172): a pending read at a register's offset reaches
it, and answers its value or stops where it has none. -/

namespace Sys2Proof.Proofs

open Sys2Proof.Machine

/-- A read that reached a register with a value hands it to the host. -/
theorem hostRead_of_some {r : HostReg} {s : State} {v : Word} (h : readReg r s = some v) :
    hostRead r s = .next (s.logRead v) := by
  simp [hostRead, h]

/-- A read that reached a TBUF word with no value stops the machine (10_state.md rule R34). -/
theorem hostRead_of_none {r : HostReg} {s : State} (h : readReg r s = none) :
    hostRead r s = .fault .unwrittenTableWord := by
  simp [hostRead, h]

/-- A step with a read of register `r` to come performs that read. -/
theorem step_of_pending_rd {s : State} {r : HostReg} {rest : List Transaction}
    (h : s.pending = rd s.blockBase r :: rest) : step s = hostRead r (s.setPending rest) :=
  (performNext_cons h).trans (perform_rd (s.setPending rest) r)

/-- Settles O10: the step is the read of TBUF word `i`, whose value is the word as TBUF holds it. -/
theorem tableReadNeedsWrittenWord : Obligations.TableReadNeedsWrittenWord := by
  intro s i rest hp
  have hstep : step s = hostRead (.tbuf i) (s.setPending rest) := step_of_pending_rd hp
  exact ⟨fun v hv => hstep.trans (hostRead_of_some hv), fun hn => hstep.trans (hostRead_of_none hn)⟩

end Sys2Proof.Proofs
end

section
/-! PROOFS. Host accesses that the model refuses (20_memory.md rules R55, R56): `locate` names the reason, and a step
with such an access to come, a write or a read, is refused for that reason. -/

namespace Sys2Proof.Proofs

open Sys2Proof.Machine

/-- An access of 8 or 16 bits is refused whatever its address (rule R55). -/
theorem locate_subWord {size : AccessSize} (hsize : size ≠ .word) (base addr : Nat) :
    locate base addr size = .error .subWordAccess := by
  simp [locate, hsize]

/-- A 32-bit access at an offset that is no multiple of 4 is refused (rule R55). -/
theorem locate_misaligned {off : Nat} (halign : off % 4 ≠ 0) (base : Nat) :
    locate base (base + off) .word = .error .misalignedAccess := by
  simp [locate, halign]

/-- An aligned 32-bit access at an offset without a register is refused (rule R56). -/
theorem locate_unmapped {off : Nat} (halign : off % 4 = 0) (hmap : regAt off = none) (base : Nat) :
    locate base (base + off) .word = .error .unmappedAccess := by
  simp [locate, halign, hmap]

/-- A step with an access to come that `locate` refuses is refused, be it a write or a read. -/
theorem step_of_locate_error {s : State} {addr : Nat} {size : AccessSize} {rest : List Transaction} {e : Refusal}
    (hp : (∃ v, s.pending = .write addr size v :: rest) ∨ s.pending = .read addr size :: rest)
    (he : locate s.blockBase addr size = .error e) : step s = .refused e := by
  have hbase : locate (s.setPending rest).blockBase addr size = .error e := he
  obtain ⟨v, hp⟩ | hp := hp
  · exact (performNext_cons hp).trans (by simp only [perform, hbase])
  · exact (performNext_cons hp).trans (by simp only [perform, hbase])

/-- Settles O12: the width is looked at first, the alignment of the offset next. -/
theorem subWordAndMisalignedAccessRefused : Obligations.SubWordAndMisalignedAccessRefused := by
  intro s off size rest hp
  refine ⟨fun hsize => step_of_locate_error hp (locate_subWord hsize _ _), ?_⟩
  rintro rfl halign
  exact step_of_locate_error hp (locate_misaligned halign _)

/-- Settles O13: a sub-word or misaligned access is refused at every offset, and an aligned 32-bit one because the map
has no register there. -/
theorem unmappedAccessRefused : Obligations.UnmappedAccessRefused := by
  intro s off size rest hp hoff
  have hmap : regAt off = none := regAt_unmapped (by omega)
  have haligned : size = .word → off % 4 = 0 → step s = .refused .unmappedAccess := by
    rintro rfl halign
    exact step_of_locate_error hp (locate_unmapped halign hmap _)
  refine ⟨?_, haligned⟩
  obtain ⟨hsub, hmis⟩ := subWordAndMisalignedAccessRefused s off size rest hp
  by_cases hsize : size = .word
  · by_cases halign : off % 4 = 0
    · exact ⟨_, haligned hsize halign⟩
    · exact ⟨_, hmis hsize halign⟩
  · exact ⟨_, hsub hsize⟩

end Sys2Proof.Proofs
end

section
/-! PROOFS. The acts of the outside world on data memory (20_memory.md rules R51, R52, R62): each is one update of the
state, and the block's read of a byte sees it through `Memory.read` and the contended list. -/

namespace Sys2Proof.Proofs

open Sys2Proof.Machine

/-- The block's read of a byte looks at that byte of data memory, the contended list and the draw counter alone. -/
theorem memRead_congr {s t : State} {x : Nat} (hmem : t.mem.read x = s.mem.read x)
    (hcontended : t.contended = s.contended) (hdraws : t.draws = s.draws) : t.memRead x = s.memRead x := by
  simp only [State.memRead, hmem, hcontended, hdraws]

/-- Settles O14: a stored byte is read back, a hidden one is not there, and contention decides between data memory and
the free value; at every other address data memory answers as before. -/
theorem hostMemoryActsAreSeen : Obligations.HostMemoryActsAreSeen := by
  refine fun s rest => ⟨fun a b hp => ?store, fun a hp => ?hide, fun addrs hp => ?contend⟩
  case store =>
    have hsame := memory_read_write_same s.mem a.toNat b
    refine ⟨_, performNext_cons hp, hsame, fun hfree => ?_, fun hheld => ?_, fun x hx => ?_, rfl⟩
    · exact (memRead_of_not_contended (s := (s.setPending rest).setMem _) hfree).trans hsame
    · exact (memRead_of_contended (s := (s.setPending rest).setMem _) hheld).trans (congrArg (Option.map _) hsame)
    · have hother := memory_read_write_ne s.mem b hx
      exact ⟨hother, memRead_congr hother rfl rfl⟩
  case hide =>
    have hgone := memory_read_hide_same s.mem a.toNat
    refine ⟨_, performNext_cons hp, hgone, (memRead_eq_none_iff _ _).2 hgone, fun x hx => ?_, rfl⟩
    have hother := memory_read_hide_ne s.mem hx
    exact ⟨hother, memRead_congr hother rfl rfl⟩
  case contend =>
    exact ⟨_, performNext_cons hp, rfl, fun x hx => memRead_of_not_contended hx, fun x hx => memRead_of_contended hx⟩

/-- Settles O21: none of a command's effects touches data memory, an argument register or the host's side. -/
theorem commandsWriteOnlyBlockOutputs : Obligations.CommandsWriteOnlyBlockOutputs := by
  intro i s t h
  obtain ⟨-, rfl⟩ | ⟨-, he⟩ := exec_effect h
  · exact ⟨fun _ => rfl, rfl⟩
  · cases he with
    | reflected _ _ | evaluated _ _ | built _ _ | faulted _ _ => exact ⟨fun _ => rfl, rfl⟩

end Sys2Proof.Proofs
end

section
/-! PROOFS. The checks of an EVAL on its buffer (42_crc_evaluator.md rule R140; 20_memory.md rules R52, R57): with a
registered polynomial the size decides first, the readable bytes next, and what the checks answer is what the command
does. -/

namespace Sys2Proof.Proofs

open Sys2Proof.Machine Sys2Proof.Claims

/-- The registry holds exactly the keys of 42_crc_evaluator.md rule R141. -/
theorem registryHas_iff_registered {w : Nat} (p : BitVec w) : registryHas p = true ↔ Registered w p := by
  by_cases h16 : w = 16
  · subst h16
    have hkey (k : Word) : p.setWidth 32 = k ↔ p.toNat = k.toNat := by
      rw [← BitVec.toNat_inj, BitVec.toNat_setWidth_of_le (by decide)]
    simp [registryHas, registryKeys, Registered, hkey]
  · by_cases h32 : w = 32
    · subst h32
      simp [registryHas, registryKeys, Registered, ← BitVec.toNat_inj]
    · simp [registryHas, registryKeys, Registered, h16, h32]

/-- ADDR + SIZE is at most 2^32, or past it (20_memory.md rule R57). -/
theorem bufferInRange_iff (s : State) :
    s.bufferInRange = true ↔ s.args.addr.toNat + s.args.size.toNat ≤ 2 ^ 32 :=
  decide_eq_true_iff

/-- A buffer has no value if one of its bytes is not readable (20_memory.md rule R52). -/
theorem buffer_eq_none_of_unreadable {s : State} {k : Nat} (hk : k < s.args.size.toNat)
    (hread : s.mem.read (s.args.addr.toNat + k) = none) : s.buffer = none :=
  (readBytes_eq_none_iff s _ _).2 ⟨k, hk, (memRead_eq_none_iff s _).2 hread⟩

/-- A buffer of SIZE = 0 is the empty one, whatever is readable (20_memory.md rule R52). -/
theorem buffer_of_size_zero {s : State} (hsize : s.args.size = 0) : s.buffer = some [] := by
  simp [State.buffer, State.readBytes, hsize]

section Eval

variable {ir rr : Bool} {s : State} {i : Instr} {c : Word} {w : Nat}

/-- An EVAL at a width of the registry, with the word and the width that the statements list beside it, runs the
evaluation of that width on that word. -/
theorem encode_and_commandRun_of_eval
    (hi : (i, c, w) ∈
      [(.eval16 ir rr, commandWord 3 2 false ir rr, 16), (.eval32 ir rr, commandWord 3 4 false ir rr, 32)]) :
    encode i = c ∧ commandRun i = runEval w ir rr c := by
  simp only [List.mem_cons, Prod.mk.injEq, List.not_mem_nil, or_false] at hi
  obtain ⟨rfl, rfl, rfl⟩ | ⟨rfl, rfl, rfl⟩ := hi <;> exact ⟨rfl, rfl⟩

/-- A command that runs an evaluation whose checks stop with cause `k` takes that fault. -/
theorem faults_of_evalChecks_error {k : Cause} (hs : s.faulted = false) (hword : encode i = c)
    (hrun : commandRun i = runEval w ir rr c) (hk : evalChecks w s = .error k) : Faults i c k.statusWord s := by
  refine ⟨hword, ?_⟩
  rw [exec_eq_issue, issue_of_not_faulted hs, hrun, runEval, hk]
  rfl

/-- A command that runs an evaluation whose checks pass leaves the block not faulted. -/
theorem exec_completes_of_evalChecks_ok {bytes : List Byte} (hs : s.faulted = false)
    (hrun : commandRun i = runEval w ir rr c) (hok : evalChecks w s = .ok bytes) :
    ∃ t, exec i s = .next t ∧ t.faulted = false := by
  refine ⟨(s.setResult ((evalValue w ir rr s bytes).setWidth 32)).nextDraw, ?_, hs⟩
  rw [exec_eq_issue, issue_of_not_faulted hs, hrun, runEval, hok]

end Eval

section Checks

variable {s : State} {w : Nat} (hreg : Registered w (s.operand w .poly))
include hreg

theorem evalChecks_of_oversized (hsize : s.args.addr.toNat + s.args.size.toNat > 2 ^ 32) :
    evalChecks w s = .error .sizeRange := by
  have hrange : s.bufferInRange = false := by
    rw [← Bool.not_eq_true, bufferInRange_iff]
    omega
  simp [evalChecks, (registryHas_iff_registered _).2 hreg, hrange]

variable (hsize : s.args.addr.toNat + s.args.size.toNat ≤ 2 ^ 32)
include hsize

theorem evalChecks_of_unreadable (hbuf : s.buffer = none) : evalChecks w s = .error .bufferAccess := by
  simp [evalChecks, (registryHas_iff_registered _).2 hreg, (bufferInRange_iff s).2 hsize, hbuf]

theorem evalChecks_of_readable {bytes : List Byte} (hbuf : s.buffer = some bytes) : evalChecks w s = .ok bytes := by
  simp [evalChecks, (registryHas_iff_registered _).2 hreg, (bufferInRange_iff s).2 hsize, hbuf]

end Checks

/-- Settles O39: past 2^32 the size check stops the command, and up to 2^32 only an unreadable buffer can. -/
theorem oversizedBufferFaults : Obligations.OversizedBufferFaults := by
  intro ir rr s i c w hs hi hreg
  obtain ⟨hword, hrun⟩ := encode_and_commandRun_of_eval hi
  refine ⟨fun hsize => faults_of_evalChecks_error hs hword hrun (evalChecks_of_oversized hreg hsize), fun hsize => ?_⟩
  cases hbuf : s.buffer with
  | none =>
    obtain ⟨-, hexec⟩ := faults_of_evalChecks_error hs hword hrun (evalChecks_of_unreadable hreg hsize hbuf)
    exact ⟨_, hexec, fun _ => rfl⟩
  | some bytes =>
    obtain ⟨t, hexec, ht⟩ := exec_completes_of_evalChecks_ok hs hrun (evalChecks_of_readable hreg hsize hbuf)
    exact ⟨t, hexec, fun hf => by simp [ht] at hf⟩

/-- Settles O40: an unreadable byte leaves the buffer without a value, and the empty buffer has one. -/
theorem unreadableBufferFaults : Obligations.UnreadableBufferFaults := by
  intro ir rr s i c w hs hi hreg hsize
  obtain ⟨hword, hrun⟩ := encode_and_commandRun_of_eval hi
  refine ⟨fun k hk hread => ?_, fun hzero => ?_⟩
  · have hbuf := buffer_eq_none_of_unreadable hk hread
    exact faults_of_evalChecks_error hs hword hrun (evalChecks_of_unreadable hreg hsize hbuf)
  · exact exec_completes_of_evalChecks_ok hs hrun (evalChecks_of_readable hreg hsize (buffer_of_size_zero hzero))

end Sys2Proof.Proofs
end

section
/-! PROOFS. The decoder against the fields of a command word (30_encoding.md rules R71, R73, R74): a word is determined
by its fields, and the decoder either refuses ill-formed fields or answers the command that has them. -/

namespace Sys2Proof.Proofs

/-- Settles O1: each word is taken apart by the decoder's checks. -/
theorem familyWordsDecode : Obligations.FamilyWordsDecode := by
  unfold Obligations.FamilyWordsDecode
  decide

/-- Settles O5: one lemma per constructor. -/
theorem everyCommandCarriesItsFields : Obligations.EveryCommandCarriesItsFields := by
  intro i
  cases i with
  | rev8 => exact Laws.LegalFields.rev8
  | rev16 => exact Laws.LegalFields.rev16
  | rev32 => exact Laws.LegalFields.rev32
  | tbuildF8 => exact Laws.LegalFields.tbuildF8
  | tbuildF16 => exact Laws.LegalFields.tbuildF16
  | tbuildF32 => exact Laws.LegalFields.tbuildF32
  | tbuildR8 => exact Laws.LegalFields.tbuildR8
  | tbuildR16 => exact Laws.LegalFields.tbuildR16
  | tbuildR32 => exact Laws.LegalFields.tbuildR32
  | eval8 ir rr => exact Laws.LegalFields.eval8 ir rr
  | eval16 ir rr => exact Laws.LegalFields.eval16 ir rr
  | eval32 ir rr => exact Laws.LegalFields.eval32 ir rr
  | revBw0 => exact Laws.LegalFields.revBw0
  | revBw3 => exact Laws.LegalFields.revBw3
  | revBw5 => exact Laws.LegalFields.revBw5
  | revBw6 => exact Laws.LegalFields.revBw6
  | revBw7 => exact Laws.LegalFields.revBw7
  | tbuildBw0 m => exact Laws.LegalFields.tbuildBw0 m
  | tbuildBw3 m => exact Laws.LegalFields.tbuildBw3 m
  | tbuildBw5 m => exact Laws.LegalFields.tbuildBw5 m
  | tbuildBw6 m => exact Laws.LegalFields.tbuildBw6 m
  | tbuildBw7 m => exact Laws.LegalFields.tbuildBw7 m
  | evalBw0 ir rr => exact Laws.LegalFields.evalBw0 ir rr
  | evalBw3 ir rr => exact Laws.LegalFields.evalBw3 ir rr
  | evalBw5 ir rr => exact Laws.LegalFields.evalBw5 ir rr
  | evalBw6 ir rr => exact Laws.LegalFields.evalBw6 ir rr
  | evalBw7 ir rr => exact Laws.LegalFields.evalBw7 ir rr

/-- Words with an equal field agree in that field's bits. -/
theorem getLsbD_eq_of_extractLsb'_eq {c d : Word} {start len i : Nat}
    (h : c.extractLsb' start len = d.extractLsb' start len) (hlow : start ≤ i) (hhigh : i < start + len) :
    c.getLsbD i = d.getLsbD i := by
  have hlen : i - start < len := by omega
  have hbit := congrArg (·.getLsbD (i - start)) h
  simpa [BitVec.getLsbD_extractLsb', hlen, Nat.add_sub_of_le hlow] using hbit

/-- The seven fields of rule R71 cover the word. -/
theorem wordFields_injective {c d : Word} (h : wordFields c = wordFields d) : c = d := by
  obtain ⟨hop, hbw, hbit7, hm, hir, hrr, hhigh⟩ := CommandFields.mk.inj h
  refine BitVec.eq_of_getLsbD_eq fun i hi => ?_
  by_cases h4 : i < 4
  · exact getLsbD_eq_of_extractLsb'_eq hop (by omega) (by omega)
  by_cases h7 : i < 7
  · exact getLsbD_eq_of_extractLsb'_eq hbw (by omega) (by omega)
  by_cases h11 : 11 ≤ i
  · exact getLsbD_eq_of_extractLsb'_eq hhigh h11 (by omega)
  obtain rfl | rfl | rfl | rfl : i = 7 ∨ i = 8 ∨ i = 9 ∨ i = 10 := by omega
  exacts [hbit7, hm, hir, hrr]

/-- The REV row that the decoder chooses has the byte width of the word (rule R74). -/
theorem fields_decodeRev (bw : BitVec 3) : (decodeRev bw).fields = .ofRev bw := by
  revert bw; decide

/-- The TBUILD row that the decoder chooses has the byte width and the mode of the word (rule R74). -/
theorem fields_decodeTbuild (bw : BitVec 3) (m : Bool) : (decodeTbuild bw m).fields = .ofTbuild bw m := by
  revert bw m; decide

/-- The EVAL row that the decoder chooses has the byte width and the flags of the word (rule R74). -/
theorem fields_decodeEval (bw : BitVec 3) (ir rr : Bool) : (decodeEval bw ir rr).fields = .ofEval bw ir rr := by
  revert bw ir rr; decide

/-- The field rules of R71 are broken exactly when one of the five checks of R73 applies. -/
theorem wordFields_illFormed_iff (c : Word) :
    (wordFields c).wellFormed = false ↔
      (fieldHigh c ≠ 0 ∨ fieldBit7 c) ∨ (fieldOp c ≠ 1 ∧ fieldOp c ≠ 2 ∧ fieldOp c ≠ 3) ∨
      (fieldOp c = 1 ∧ (fieldM c || fieldIr c || fieldRr c)) ∨ (fieldOp c = 2 ∧ (fieldIr c || fieldRr c)) ∨
      (fieldOp c = 3 ∧ fieldM c) := by
  grind [wordFields, CommandFields.wellFormed, CommandFields.reservedClear, CommandFields.opDefined,
    CommandFields.modeAllowed, CommandFields.reflectionAllowed]

/-- Everything the decoder can answer: it refuses a word with ill-formed fields, or gives the command that has the
word's fields. -/
theorem decode_cases (c : Word) :
    ((∃ e, decode c = .error e) ∧ (wordFields c).wellFormed = false) ∨
    (∃ i, decode c = .ok i ∧ wordFields c = i.fields) := by
  rw [wordFields_illFormed_iff]
  unfold decode
  split_ifs with hreserved hop hrev htbuild heval hisRev hisTbuild
  · exact .inl ⟨⟨_, rfl⟩, .inl hreserved⟩
  · exact .inl ⟨⟨_, rfl⟩, .inr (.inl hop)⟩
  · exact .inl ⟨⟨_, rfl⟩, .inr (.inr (.inl hrev))⟩
  · exact .inl ⟨⟨_, rfl⟩, .inr (.inr (.inr (.inl htbuild)))⟩
  · exact .inl ⟨⟨_, rfl⟩, .inr (.inr (.inr (.inr heval)))⟩
  · exact .inr ⟨_, rfl, by grind [wordFields, CommandFields.ofRev, fields_decodeRev]⟩
  · exact .inr ⟨_, rfl, by grind [wordFields, CommandFields.ofTbuild, fields_decodeTbuild]⟩
  · exact .inr ⟨_, rfl, by grind [wordFields, CommandFields.ofEval, fields_decodeEval]⟩

/-- A word decodes to a command exactly when it has that command's fields. -/
theorem decode_eq_ok_iff_fields {c : Word} {i : Instr} : decode c = .ok i ↔ wordFields c = i.fields := by
  obtain ⟨-, hfields⟩ := everyCommandCarriesItsFields i
  constructor
  · intro hi
    obtain ⟨⟨e, he⟩, -⟩ | ⟨j, hj, hc⟩ := decode_cases c
    · cases hi.symm.trans he
    · cases hi.symm.trans hj
      exact hc
  · intro hc
    rw [wordFields_injective (hc.trans hfields.symm), decode_encode]

/-- Settles O2: both sides say that the word has the command's fields, which determine it. -/
theorem decodeInvertsEncode : Obligations.DecodeInvertsEncode := by
  intro c i
  obtain ⟨-, hfields⟩ := everyCommandCarriesItsFields i
  rw [decode_eq_ok_iff_fields, ← hfields]
  exact ⟨wordFields_injective, congrArg wordFields⟩

/-- Settles O4: the decoder refuses ill-formed fields, and a command's fields are well-formed. -/
theorem decoderRefusesExactlyIllFormedFields : Obligations.DecoderRefusesExactlyIllFormedFields := by
  intro c
  obtain ⟨he, hc⟩ | ⟨i, hi, hc⟩ := decode_cases c
  · exact iff_of_true he hc
  · obtain ⟨hwf, -⟩ := everyCommandCarriesItsFields i
    refine iff_of_false (fun ⟨e, he⟩ => ?_) (fun hill => ?_)
    · cases hi.symm.trans he
    · cases (hc ▸ hill).symm.trans hwf

end Sys2Proof.Proofs
end

section
/-! PROOFS. The opcode rows of 30_encoding.md rule R74 against the decoder: a row's mask leaves out flag bits alone, so
a word that matches a row is the row's match with the word's own flags filled in. The facts about the 27 rows are
restated with `List.Forall`, which `decide` evaluates row by row. -/

namespace Sys2Proof.Proofs

open Sys2Proof.Machine Sys2Proof.Claims

/-- A row's mask leaves out flag bits alone, and those are bits [10:8] (rule R71). -/
theorem opcodeRows_mask : ∀ r ∈ opcodeRows, ~~~r.2 = 0x700 &&& ~~~r.2 := by
  rw [← List.forall_iff_forall_mem]
  decide

/-- A row's match has well-formed fields, whatever the flags at its free bits. -/
theorem opcodeRows_wellFormed (m ir rr : Bool) : ∀ r ∈ opcodeRows,
    (wordFields (r.1 ||| (commandWord 0 0 m ir rr &&& ~~~r.2))).wellFormed = true := by
  rw [← List.forall_iff_forall_mem]
  revert m ir rr
  decide

/-- Two rows whose matches agree on the bits that both masks keep are the same row. -/
theorem opcodeRows_disjoint : ∀ r ∈ opcodeRows, ∀ q ∈ opcodeRows, r.1 &&& q.2 = q.1 &&& r.2 → r = q := by
  simp only [← List.forall_iff_forall_mem]
  decide

/-- The flag bits of a word are M, IR and RR (rule R71). -/
theorem and_flagMask (c : Word) : c &&& 0x700 = commandWord 0 0 (fieldM c) (fieldIr c) (fieldRr c) := by
  have hmask : (0x700 : Word) = BitVec.twoPow 32 8 ||| BitVec.twoPow 32 9 ||| BitVec.twoPow 32 10 := by decide
  simp only [hmask, BitVec.and_or_distrib_left, BitVec.and_twoPow, fieldM, fieldIr, fieldRr]
  generalize c.getLsbD 8 = m, c.getLsbD 9 = ir, c.getLsbD 10 = rr
  revert m ir rr
  decide

/-- A word that matches a row is the row's match with the word's own flags at the free bits. -/
theorem eq_match_or_flags {c : Word} {r : Word × Word} (hr : r ∈ opcodeRows) (hc : c &&& r.2 = r.1) :
    c = r.1 ||| (commandWord 0 0 (fieldM c) (fieldIr c) (fieldRr c) &&& ~~~r.2) := by
  calc c = c &&& (r.2 ||| ~~~r.2) := by rw [BitVec.or_not_self, BitVec.and_allOnes]
    _ = c &&& r.2 ||| c &&& (0x700 &&& ~~~r.2) := by rw [BitVec.and_or_distrib_left, ← opcodeRows_mask r hr]
    _ = _ := by rw [hc, ← BitVec.and_assoc, and_flagMask]

/-- A command's word matches a row. -/
theorem encode_matches_row (i : Instr) : ∃ r ∈ opcodeRows, encode i &&& r.2 = r.1 := by
  suffices h : (opcodeRows.any fun r => encode i &&& r.2 == r.1) = true by simpa using h
  cases i with
  | tbuildBw0 m | tbuildBw3 m | tbuildBw5 m | tbuildBw6 m | tbuildBw7 m => revert m; decide
  | eval8 ir rr | eval16 ir rr | eval32 ir rr | evalBw0 ir rr | evalBw3 ir rr | evalBw5 ir rr | evalBw6 ir rr
  | evalBw7 ir rr => revert ir rr; decide
  | _ => decide

/-- A word with well-formed fields decodes. -/
theorem decode_ok_of_wellFormed {c : Word} (hc : (wordFields c).wellFormed = true) : ∃ i, decode c = .ok i := by
  obtain ⟨-, hill⟩ | ⟨i, hi, -⟩ := decode_cases c
  · cases hc.symm.trans hill
  · exact ⟨i, hi⟩

/-- Settles O3: a command's word matches a row, a word that matches a row has well-formed fields, and a word that
matches two rows makes their matches agree where both masks look. -/
theorem wordsDecodeExactlyByOpcodeRows : Obligations.WordsDecodeExactlyByOpcodeRows := by
  refine ⟨fun c => ⟨fun ⟨i, hi⟩ => ?_, fun ⟨r, hr, hc⟩ => ?_⟩, fun c r hr q hq hcr hcq => ?_⟩
  · rw [(decodeInvertsEncode c i).1 hi]
    exact encode_matches_row i
  · apply decode_ok_of_wellFormed
    rw [eq_match_or_flags hr hc]
    exact opcodeRows_wellFormed _ _ _ r hr
  · refine opcodeRows_disjoint r hr q hq ?_
    rw [← hcr, ← hcq, BitVec.and_assoc, BitVec.and_assoc, BitVec.and_comm r.2]

end Sys2Proof.Proofs
end

section
/-! PROOFS. Host writes (43_host_interface.md rules R170, R171): a pending write to a register reaches it, and a write
to CMD issues the word. The two decode faults, ILLEGAL_COMMAND and UNSUPPORTED_WIDTH, are read off the word there. -/

namespace Sys2Proof.Proofs

open Sys2Proof.Machine Sys2Proof.Claims

/-- A step with a write of register `r` to come performs that write. -/
theorem step_of_pending_wr {s : State} {r : HostReg} {v : Word} {rest : List Transaction}
    (h : s.pending = wr s.blockBase r v :: rest) : step s = writeReg r v (s.setPending rest) :=
  (performNext_cons h).trans (perform_wr (s.setPending rest) r v)

theorem issueWord_of_decode_ok {c : Word} {i : Instr} (h : decode c = .ok i) (s : State) :
    issueWord c s = exec i s := by
  simp only [issueWord, h]

/-- A word that is no command takes ILLEGAL_COMMAND (60_exceptions.md rule R201). -/
theorem issueWord_of_decode_error {c : Word} {e : Illegal} {s : State} (hs : s.faulted = false)
    (h : decode c = .error e) : issueWord c s = .next (s.takeFault .illegalCommand c) := by
  simp only [issueWord, h, execIllegal, issue_of_not_faulted hs]

/-- A command whose change is the UNSUPPORTED_WIDTH fault on its own word takes that fault. -/
theorem exec_of_widthFault {i : Instr} {s : State} (hs : s.faulted = false)
    (hrun : commandRun i = fun s => s.takeFault .unsupportedWidth (encode i)) :
    exec i s = .next (s.takeFault .unsupportedWidth (encode i)) := by
  rw [exec_eq_issue, issue_of_not_faulted hs, hrun]

/-- Settles O20: a word that matches no row does not decode, and the write issues it. -/
theorem illegalWordLatchesCauseOne : Obligations.IllegalWordLatchesCauseOne := by
  intro s c rest hs hp hrows
  have hstep : step s = issueWord c (s.setPending rest) := step_of_pending_wr (r := .cmd) hp
  obtain ⟨hdecodes, -⟩ := wordsDecodeExactlyByOpcodeRows
  cases hdecode : decode c with
  | ok i =>
    obtain ⟨r, hr, hc⟩ := (hdecodes c).1 ⟨i, hdecode⟩
    exact absurd hc (hrows r hr)
  | error e => exact hstep.trans (issueWord_of_decode_error hs hdecode)

/-- Settles O41: each of the fifteen commands has the word beside it, and its change is the fault on that word. -/
theorem unsupportedWidthFaults : Obligations.UnsupportedWidthFaults := by
  intro m ir rr s hs p hp
  fin_cases hp <;> exact ⟨rfl, exec_of_widthFault hs rfl⟩

end Sys2Proof.Proofs
end

section
/-! PROOFS. The value of an EVAL and the table of a TBUILD against the statements' own wording
(41_table_builder.md rules R121, R122; 42_crc_evaluator.md rule R140): the loops of eight turns are iterations, and an
evaluation is its operands', which are the low W bits, ADDR, SIZE and the buffer (30_encoding.md rule R72). -/

namespace Sys2Proof.Proofs

open Sys2Proof.Machine Sys2Proof.Claims

/-- The forward-mode entry is the loop of rule R121. -/
theorem fwdEntry_eq_forwardTable {w : Nat} (p : BitVec w) (b : Byte) : fwdEntry p b = forwardTable p b := by
  rw [fwdEntry, rev_eq_reverse]
  exact (List.foldl_const (fwdStep p.reverse) (b.setWidth w) (List.range 8)).symm

/-- The reflected-mode entry is the loop of rule R122. -/
theorem refEntry_eq_reflectedTable {w : Nat} (p : BitVec w) (d : Byte) : refEntry p d = reflectedTable p d := by
  simp only [reflectedTable, BitVec.msb_eq_getLsbD_last]
  exact (List.foldl_const (refStep p) (d.setWidth w <<< (w - 8)) (List.range 8)).symm

/-- One byte of rule R143 with the table as the loop of rule R121. -/
theorem foldByte_eq {w : Nat} (p : BitVec w) (ir : Bool) (crc : BitVec w) (b : Byte) :
    foldByte p ir crc b = forwardTable p ((crc ^^^ (entering ir b).setWidth w).setWidth 8) ^^^ (crc >>> 8) := by
  simp only [foldByte, regTable, fwdEntry_eq_forwardTable, rev_eq_reverse, entering]

/-- The value of an evaluation is steps 2 to 6 over its operands. -/
theorem evalValue_eq_crcOf (w : Nat) (ir rr : Bool) (s : State) (bytes : List Byte) :
    evalValue w ir rr s bytes = crcOf (s.args.poly.setWidth w) (s.args.crc.setWidth w) (s.args.init.setWidth w)
      (s.args.xin.setWidth w) (s.args.xout.setWidth w) ir rr bytes := by
  rw [evalValue, finishCrc, rev_eq_reverse, foldBuffer, funext₂ (foldByte_eq _ ir)]
  rfl

theorem runEval_of_evalChecks_error {w : Nat} {ir rr : Bool} {c : Word} {s : State} {k : Cause}
    (h : evalChecks w s = .error k) : runEval w ir rr c s = s.takeFault k c := by
  simp only [runEval, h]

theorem runEval_of_evalChecks_ok {w : Nat} {ir rr : Bool} {c : Word} {s : State} {bytes : List Byte}
    (h : evalChecks w s = .ok bytes) :
    runEval w ir rr c s = (s.setResult ((evalValue w ir rr s bytes).setWidth 32)).nextDraw := by
  simp only [runEval, h]

/-- Commands whose change is the evaluation of width W are EVAL commands of that width. -/
theorem evalCommand_of_commandRun {w : Nat} {i : Bool → Bool → Instr}
    (hrun : ∀ ir rr, commandRun (i ir rr) = runEval w ir rr (encode (i ir rr))) : EvalCommand w i := by
  intro ir rr s bytes hs hreg hsize hbytes
  have hbuffer : s.buffer = some bytes := (readBytes_eq_some_iff s _ _ bytes).2 hbytes
  refine ⟨(s.setResult ((evalValue w ir rr s bytes).setWidth 32)).nextDraw, ?_, ?_, rfl⟩
  · rw [exec_eq_issue, issue_of_not_faulted hs, hrun,
      runEval_of_evalChecks_ok (evalChecks_of_readable hreg hsize hbuffer)]
  · rw [← evalValue_eq_crcOf]
    rfl

/-- A command whose change is `runTbuildF w` is a forward-mode TBUILD command of width W. -/
theorem tbuildCommand_forward {i : Instr} {c : Word} {w : Nat} (hc : encode i = c)
    (hrun : commandRun i = runTbuildF w) : TbuildCommand i c w forwardTable := by
  refine ⟨hc, fun s hs => ⟨runTbuildF w s, ?_, fun b => ?_, rfl⟩⟩
  · rw [exec_eq_issue, issue_of_not_faulted hs, hrun]
  · rw [runTbuildF, setTable_tbufWord, fwdEntry_eq_forwardTable]
    rfl

/-- A command whose change is `runTbuildR w` is a reflected-mode TBUILD command of width W. -/
theorem tbuildCommand_reflected {i : Instr} {c : Word} {w : Nat} (hc : encode i = c)
    (hrun : commandRun i = runTbuildR w) : TbuildCommand i c w reflectedTable := by
  refine ⟨hc, fun s hs => ⟨runTbuildR w s, ?_, fun b => ?_, rfl⟩⟩
  · rw [exec_eq_issue, issue_of_not_faulted hs, hrun]
  · rw [runTbuildR, setTable_tbufWord, refEntry_eq_reflectedTable]
    rfl

/-- A buffer read is the same where each byte reads the same. -/
theorem readBytes_congr {s u : State} {n a b : Nat} (h : ∀ k, k < n → s.memRead (a + k) = u.memRead (b + k)) :
    s.readBytes a n = u.readBytes b n := by
  induction n generalizing a b with
  | zero => rfl
  | succ n ih =>
    have hfirst : s.memRead a = u.memRead b := h 0 (by omega)
    have hrest : s.readBytes (a + 1) n = u.readBytes (b + 1) n := ih fun k hk => by
      simpa [Nat.add_assoc, Nat.add_comm 1] using h (k + 1) (by omega)
    simp only [State.readBytes, hfirst, hrest]

/-- The checks of an evaluation look at its operands alone. -/
theorem evalChecks_congr {w : Nat} {s u : State} (h : SameOperands w s u) : evalChecks w s = evalChecks w u := by
  have hpoly : s.operand w .poly = u.operand w .poly := h.poly
  have hrange : s.bufferInRange = u.bufferInRange := by simp only [State.bufferInRange, h.addr, h.size]
  have hbuffer : s.buffer = u.buffer := by
    rw [State.buffer, State.buffer, ← h.size]
    exact readBytes_congr h.bytes
  rw [evalChecks, evalChecks, hpoly, hrange, hbuffer]

/-- The value of an evaluation looks at its operands alone. -/
theorem evalValue_congr {w : Nat} {s u : State} (h : SameOperands w s u) (ir rr : Bool) (bytes : List Byte) :
    evalValue w ir rr s bytes = evalValue w ir rr u bytes := by
  simp only [evalValue_eq_crcOf, h.poly, h.crc, h.init, h.xin, h.xout]

/-- Settles O43: the two checks answer alike, and so do the two values where they pass. -/
theorem evalDependsOnOperandsOnly : Obligations.EvalDependsOnOperandsOnly := by
  intro ir rr i w hi s u hs hu hsame
  have hrun : commandRun i = runEval w ir rr (encode i) := by
    simp only [List.mem_cons, Prod.mk.injEq, List.not_mem_nil, or_false] at hi
    obtain ⟨rfl, rfl⟩ | ⟨rfl, rfl⟩ | ⟨rfl, rfl⟩ := hi <;> rfl
  simp only [exec_eq_issue, issue_of_not_faulted hs, issue_of_not_faulted hu, hrun]
  have hchecks := evalChecks_congr hsame
  cases hcheck : evalChecks w s with
  | error k =>
    refine ⟨_, _, congrArg _ (runEval_of_evalChecks_error hcheck),
      congrArg _ (runEval_of_evalChecks_error (hchecks ▸ hcheck)), ?_⟩
    simp
  | ok bytes =>
    refine ⟨_, _, congrArg _ (runEval_of_evalChecks_ok hcheck),
      congrArg _ (runEval_of_evalChecks_ok (hchecks ▸ hcheck)), ?_⟩
    simp [hs, hu, evalValue_congr hsame]

end Sys2Proof.Proofs
end

section
/-! PROOFS. The host's calls (30_encoding.md rule R78): a call writes argument registers, then one command word, and
some then read RESULT. The transactions are performed in order, so the command is issued with the arguments in place. -/

namespace Sys2Proof.Proofs

open Sys2Proof.Machine Sys2Proof.Claims

/-- The argument writes of a call on a block at `base`. -/
def argWrites (base : Nat) (l : List (ArgReg × Word)) : List Transaction := l.map fun p => wr base (.arg p.1) p.2

/-- `s` with the argument writes `l` performed and the transactions `rest` to come. -/
def afterArgWrites (s : State) (l : List (ArgReg × Word)) (rest : List Transaction) : State :=
  { s with args := l.foldl (fun g p => g.set p.1 p.2) s.args, pending := rest }

/-- A step to a next state, then `k` more. -/
theorem run_succ_of_step {s t : State} (h : step s = .next t) (k : Nat) : core.run (k + 1) s = core.run k t := by
  simp only [Host.Core.run, show core.step s = .next t from h]

/-- Argument writes are performed one a step, in order. -/
theorem run_argWrites {s : State} {l : List (ArgReg × Word)} {rest : List Transaction}
    (hp : s.pending = argWrites s.blockBase l ++ rest) (k : Nat) :
    core.run (l.length + k) s = core.run k (afterArgWrites s l rest) := by
  induction l generalizing s with
  | nil =>
    obtain rfl : s.pending = rest := hp
    rw [List.length_nil, Nat.zero_add]
    rfl
  | cons p l ih =>
    have hstep : step s = .next ((s.setPending (argWrites s.blockBase l ++ rest)).setArg p.1 p.2) :=
      step_of_pending_wr (r := .arg p.1) hp
    rw [List.length_cons, Nat.add_right_comm, run_succ_of_step hstep]
    exact ih rfl

/-- A call's command is issued with the call's arguments in place. -/
theorem run_call {s t : State} {l : List (ArgReg × Word)} {c : Word} {rest : List Transaction}
    (hp : s.pending = argWrites s.blockBase l ++ wr s.blockBase .cmd c :: rest)
    (ht : issueWord c (afterArgWrites s l rest) = .next t) (k : Nat) :
    core.run (l.length + (k + 1)) s = core.run k t := by
  rw [run_argWrites hp, run_succ_of_step]
  exact (step_of_pending_wr (r := .cmd) (s := afterArgWrites s l _) rfl).trans ht

/-- A call that ends with a read of RESULT hands the host what its command left there. -/
theorem run_call_reading_result {s t : State} {l : List (ArgReg × Word)} {i : Instr} {rest : List Transaction}
    (hp : s.pending = argWrites s.blockBase l ++ wr s.blockBase .cmd (encode i) :: rd s.blockBase .result :: rest)
    (ht : exec i (afterArgWrites s l (rd s.blockBase .result :: rest)) = .next t) :
    core.run (l.length + 2) s = .next ((t.setPending rest).logRead t.result) := by
  obtain ⟨-, hframe⟩ := commandsWriteOnlyBlockOutputs i _ t ht
  have hpending : t.pending = rd t.blockBase .result :: rest := by rw [hframe]; rfl
  have hread : step t = .next ((t.setPending rest).logRead t.result) :=
    (step_of_pending_rd hpending).trans (hostRead_of_some rfl)
  rw [run_call hp ((issueWord_of_decode_ok (decode_encode i) _).trans ht), run_succ_of_step hread]
  rfl

/-! ### `crc16` and `crc32` -/

/-- The argument registers that a CRC call writes. -/
def crcArgs (p c a n init xin xout : Word) : List (ArgReg × Word) :=
  [(.poly, p), (.crc, c), (.addr, a), (.size, n), (.init, init), (.xin, xin), (.xout, xout)]

/-- The command word of a `crc16` call is `eval.16` with the call's flags. -/
theorem crcCommand_eq_encode_eval16 (ir rr : Bool) : crcCommand 0x23 ir rr = encode (.eval16 ir rr) := by
  revert ir rr; decide

/-- The command word of a `crc32` call is `eval.32` with the call's flags. -/
theorem crcCommand_eq_encode_eval32 (ir rr : Bool) : crcCommand 0x43 ir rr = encode (.eval32 ir rr) := by
  revert ir rr; decide

/-- A CRC call with the word of an EVAL of width W hands the host the CRC of the buffer. -/
theorem run_crcCall {w : Nat} {i : Bool → Bool → Instr} (heval : EvalCommand w i) {s : State}
    {p c a n init xin xout : Word} {ir rr : Bool} {bytes : List Byte} {rest : List Transaction}
    (hs : s.faulted = false) (hsize : a.toNat + n.toNat ≤ 2 ^ 32) (hlen : bytes.length = n.toNat)
    (hbytes : ∀ k (h : k < bytes.length), s.memRead (a.toNat + k) = some bytes[k])
    (hreg : Registered w (p.setWidth w))
    (hp : s.pending = crcCall s.blockBase (encode (i ir rr)) p c a n init xin xout ++ rest) :
    ∃ t, core.run 9 s = .next t ∧ t.faulted = false ∧ t.pending = rest ∧
      t.reads = s.reads ++ [(crcOf (p.setWidth w) (c.setWidth w) (init.setWidth w) (xin.setWidth w)
        (xout.setWidth w) ir rr bytes).setWidth 32] := by
  obtain ⟨t, hexec, hresult, hframe⟩ := heval ir rr
    (afterArgWrites s (crcArgs p c a n init xin xout) (rd s.blockBase .result :: rest)) bytes hs hreg hsize
    ⟨hlen, hbytes⟩
  refine ⟨_, run_call_reading_result (l := crcArgs p c a n init xin xout) hp hexec, ?_, rfl, ?_⟩
  · rw [hframe]; exact hs
  · rw [logRead_reads, hresult, hframe]; rfl

/-- Settles O49: the command words are those of `eval.16` and `eval.32` with the call's flags. -/
theorem crcCallsReturnCrc : Obligations.CrcCallsReturnCrc := by
  intro s p c a n init xin xout ir rr bytes rest hs hsize hlen hbytes
  refine ⟨fun hreg hp => ?_, fun hreg hp => ?_⟩
  · rw [crc16Call, crcCommand_eq_encode_eval16] at hp
    exact run_crcCall (evalCommand_of_commandRun fun _ _ => rfl) hs hsize hlen hbytes hreg hp
  · rw [crc32Call, crcCommand_eq_encode_eval32] at hp
    simpa only [BitVec.setWidth_eq] using
      run_crcCall (evalCommand_of_commandRun fun _ _ => rfl) hs hsize hlen hbytes hreg hp

/-! ### `reflect` -/

/-- A `reflect` call with the word of a REV of width W hands the host the reflection of the low W bits. -/
theorem run_reflectCall {i : Instr} {c : Word} {w : Nat} (hrev : RevCommand i c w) {s : State} {v : Word}
    {rest : List Transaction} (hs : s.faulted = false)
    (hp : s.pending = [wr s.blockBase (.arg .val) v, wr s.blockBase .cmd c, rd s.blockBase .result] ++ rest) :
    ∃ t y, core.run 3 s = .next t ∧ t.reads = s.reads ++ [y] ∧ IsReflection w v y ∧ t.pending = rest := by
  obtain ⟨rfl, hrev⟩ := hrev
  obtain ⟨t, hexec, hresult, hframe⟩ := hrev (afterArgWrites s [(.val, v)] (rd s.blockBase .result :: rest)) hs
  refine ⟨_, t.result, run_call_reading_result (l := [(.val, v)]) hp hexec, ?_, hresult, rfl⟩
  rw [hframe]; rfl

/-! ### `build_table` -/

/-- A `build_table` call with the word of a TBUILD of width W leaves that command's table in TBUF. -/
theorem run_buildTableCall {i : Instr} {w bw : Nat} {reflect : Bool} {table : BitVec w → Byte → BitVec w}
    (hbuild : TbuildCommand i (buildCommand bw reflect) w table) {s : State} {v : Word} {rest : List Transaction}
    (hs : s.faulted = false) (hp : s.pending = buildTableCall s.blockBase v bw reflect ++ rest) :
    ∃ t, core.run 2 s = .next t ∧ t.pending = rest ∧
      ∀ b : Byte, t.tbufWord b = some ((table (v.setWidth w) b).setWidth 32) := by
  obtain ⟨hword, hbuild⟩ := hbuild
  obtain ⟨t, hexec, htable, hframe⟩ := hbuild (afterArgWrites s [(.poly, v)] rest) hs
  have hissue : issueWord (buildCommand bw reflect) (afterArgWrites s [(.poly, v)] rest) = .next t := by
    rw [← hword, issueWord_of_decode_ok (decode_encode i), hexec]
  exact ⟨t, run_call (l := [(.poly, v)]) hp hissue 0, hframe ▸ rfl, htable⟩

theorem fieldOp_or (c d : Word) : fieldOp (c ||| d) = fieldOp c ||| fieldOp d := BitVec.extractLsb'_or

/-- Bits shifted past OP leave it 0. -/
theorem fieldOp_shiftLeft (c : Word) {n : Nat} (hn : 4 ≤ n) : fieldOp (c <<< n) = 0 := by
  refine BitVec.eq_of_getLsbD_eq fun k hk => ?_
  have : k < n := by omega
  simp [fieldOp, BitVec.getLsbD_extractLsb', BitVec.getLsbD_shiftLeft, this]

/-- Every word of `build_table` has the OP of TBUILD. -/
theorem fieldOp_buildCommand (bw : Nat) (reflect : Bool) : fieldOp (buildCommand bw reflect) = 2 := by
  have hbw : fieldOp (BitVec.ofNat 32 bw <<< 4) = 0 := fieldOp_shiftLeft _ (by decide)
  have hreflect : fieldOp ((BitVec.ofBool reflect).setWidth 32 <<< 8) = 0 := fieldOp_shiftLeft _ (by decide)
  simp only [buildCommand]
  split <;> simp only [fieldOp_or, hbw, hreflect] <;> decide

/-- The words of `build_table` for a byte width outside {1, 2, 4} are none of the TBUILD words that do not fault. -/
theorem buildCommand_not_mem_tbuildWords {bw : Nat} (hbw : bw ∉ [1, 2, 4]) (reflect : Bool) :
    buildCommand bw reflect ∉ tbuildWords := by
  have hbit7 (c : Word) : c ||| 0x80 ∉ tbuildWords := fun hc => by
    have hset : (c ||| 0x80).getLsbD 7 = true := by simp
    have hclear : ∀ d ∈ tbuildWords, d.getLsbD 7 = false := by simp [tbuildWords]
    cases hset.symm.trans (hclear _ hc)
  simp only [buildCommand]
  split
  case isTrue => exact hbit7 _
  case isFalse h => exact fun hc => h ⟨hbw, hc⟩

/-- A word with the OP of TBUILD that is none of the six is one of the two decode faults (30_encoding.md rule R73):
UNSUPPORTED_WIDTH if its fields are well-formed, ILLEGAL_COMMAND if not. -/
theorem issueWord_of_tbuild_op {c : Word} (hop : fieldOp c = 2) (hc : c ∉ tbuildWords) {s : State}
    (hs : s.faulted = false) :
    issueWord c s =
      .next (s.takeFault (if (wordFields c).wellFormed then .unsupportedWidth else .illegalCommand) c) := by
  obtain ⟨⟨e, he⟩, hill⟩ | ⟨i, hi, hfields⟩ := decode_cases c
  · rw [issueWord_of_decode_error hs he, hill]
    rfl
  · obtain ⟨hwf, -⟩ := everyCommandCarriesItsFields i
    replace hop : i.fields.op = 2 := hfields ▸ hop
    obtain rfl : c = encode i := (decodeInvertsEncode c i).1 hi
    rw [issueWord_of_decode_ok hi, hfields, show i.fields.wellFormed = true from hwf, if_pos rfl]
    cases i with
    | tbuildBw0 m | tbuildBw3 m | tbuildBw5 m | tbuildBw6 m | tbuildBw7 m => exact exec_of_widthFault hs rfl
    | tbuildF8 | tbuildF16 | tbuildF32 | tbuildR8 | tbuildR16 | tbuildR32 => exact absurd (by decide) hc
    | _ => simp [Instr.fields, CommandFields.ofRev, CommandFields.ofEval] at hop

/-- Below 8 a byte width fits into BW and the fields are well-formed. -/
theorem buildCommand_wellFormed : ∀ bw < 8, bw ∉ [1, 2, 4] → ∀ reflect,
    (wordFields (buildCommand bw reflect)).wellFormed = true := by decide

/-- From 8 to 15 a byte width sets the reserved bit 7. -/
theorem buildCommand_illFormed : ∀ bw < 16, 8 ≤ bw → ∀ reflect,
    (wordFields (buildCommand bw reflect)).wellFormed = false := by decide

/-- Settles O50: the words of `reflect` are those of the REV commands, the words of `build_table` for a byte width of 1,
2 or 4 those of the TBUILD commands, and every other word of `build_table` is a decode fault. -/
theorem reflectAndBuildCallsWork : Obligations.ReflectAndBuildCallsWork := by
  intro s v rest hs
  refine ⟨fun w hp => ?reflect, fun bw reflect hbw hp => ?fault, fun w bw reflect hw hp => ?build⟩
  case reflect =>
    obtain ⟨hrev8, hrev16, hrev32⟩ := revCommandsReflectValue
    cases w with
    | w8 => exact run_reflectCall hrev8 hs hp
    | w16 => exact run_reflectCall hrev16 hs hp
    | w32 => exact run_reflectCall hrev32 hs hp
  case fault =>
    have hissue := issueWord_of_tbuild_op (s := afterArgWrites s [(.poly, v)] rest) (fieldOp_buildCommand bw reflect)
      (buildCommand_not_mem_tbuildWords hbw reflect) hs
    refine ⟨_, run_call (l := [(.poly, v)]) hp hissue 0, rfl, ?_, fun hlt => ?_, fun hge hlt => ?_, rfl, rfl⟩
    · split
      · exact .inr rfl
      · exact .inl rfl
    · rw [buildCommand_wellFormed bw hlt hbw]; rfl
    · rw [buildCommand_illFormed bw hlt hge]; rfl
  case build =>
    simp only [List.mem_cons, Prod.mk.injEq, List.not_mem_nil, or_false] at hw
    obtain ⟨rfl, rfl⟩ | ⟨rfl, rfl⟩ | ⟨rfl, rfl⟩ := hw
    · cases reflect with
      | false => exact run_buildTableCall (tbuildCommand_forward (i := .tbuildF8) (by decide) rfl) hs hp
      | true => exact run_buildTableCall (tbuildCommand_reflected (i := .tbuildR8) (by decide) rfl) hs hp
    · cases reflect with
      | false => exact run_buildTableCall (tbuildCommand_forward (i := .tbuildF16) (by decide) rfl) hs hp
      | true => exact run_buildTableCall (tbuildCommand_reflected (i := .tbuildR16) (by decide) rfl) hs hp
    · cases reflect with
      | false => exact run_buildTableCall (tbuildCommand_forward (i := .tbuildF32) (by decide) rfl) hs hp
      | true => exact run_buildTableCall (tbuildCommand_reflected (i := .tbuildR32) (by decide) rfl) hs hp

end Sys2Proof.Proofs
end

section
/-! PROOFS. Reflecting twice, and the three paired swaps (40_bit_reflector.md rules R102, R103). The swap of groups of
`k` bits moves bit i to i xor k, so the three together move it to i xor 7, which is 7-i. -/

namespace Sys2Proof.Proofs

open Sys2Proof.Machine

/-- `rev_W` is its own inverse (40_bit_reflector.md rule R103). -/
theorem rev_rev {w : Nat} (x : BitVec w) : rev (rev x) = x := by
  rw [rev_eq_reverse, rev_eq_reverse, BitVec.reverse_reverse_eq]

/-- A REV command reflects the low W bits of the value just written to VAL. -/
theorem runRev_setArg_val_result (w : Nat) (s : State) (v : Word) :
    (runRev w (s.setArg .val v)).result = (rev (v.setWidth w)).setWidth 32 := by
  rw [runRev, setResult_result, State.operand, setArg_args, argRegs_get_set_same]

/-- A REV command leaves a block that is not faulted so, whatever is written to VAL first. -/
theorem runRev_setArg_val_faulted (w : Nat) (s : State) (v : Word) :
    (runRev w (s.setArg .val v)).faulted = s.faulted := by
  rw [runRev, setResult_faulted, setArg_faulted]

/-- Carrying RESULT into VAL loses none of the W bits, so the second REV gives back the first one's operand. -/
theorem runRev_runRev_result {w : Nat} (hw : w ≤ 32) (s t : State) (v : Word) :
    (runRev w (t.setArg .val (runRev w (s.setArg .val v)).result)).result = (v.setWidth w).setWidth 32 := by
  rw [runRev_setArg_val_result, runRev_setArg_val_result, BitVec.setWidth_setWidth_of_le _ hw, BitVec.setWidth_eq,
    rev_rev]

/-- Settles O30: on bits by `rev_rev`, and for the commands by `runRev_runRev_result` at their width. -/
theorem reflectionIsInvolution : Obligations.ReflectionIsInvolution := by
  refine ⟨fun _ => rev_rev, fun i w hi s v hs => ?_⟩
  obtain ⟨hw, hrun⟩ : w ≤ 32 ∧ commandRun i = runRev w := by
    simp only [List.mem_cons, Prod.mk.injEq, List.not_mem_nil, or_false] at hi
    obtain ⟨rfl, rfl⟩ | ⟨rfl, rfl⟩ | ⟨rfl, rfl⟩ := hi <;> exact ⟨by decide, rfl⟩
  have hexec (u : State) (hu : u.faulted = false) : exec i u = .next (runRev w u) := by
    rw [exec_eq_issue, issue_of_not_faulted hu, hrun]
  refine ⟨_, _, hexec _ hs, hexec _ ?_, runRev_runRev_result hw s _ v⟩
  rw [setArg_faulted, runRev_setArg_val_faulted, hs]

/-- The swap of rule R102 that takes the bits under `hi` down and those under `lo` up by `k`. -/
def pairedSwap (hi lo : Byte) (k : Nat) (b : Byte) : Byte := ((b &&& hi) >>> k) ||| ((b &&& lo) <<< k)

theorem revByteSwaps_eq_pairedSwaps (b : Byte) :
    revByteSwaps b = pairedSwap 0xAA 0x55 1 (pairedSwap 0xCC 0x33 2 (pairedSwap 0xF0 0x0F 4 b)) := rfl

/-- With the masks of rule R102 the swap by `k` reads bit `i` from bit `i xor k`. -/
theorem pairedSwap_getLsbD {hi lo : Byte} {k : Nat}
    (hmask : (hi, lo, k) ∈ [((0xF0, 0x0F, 4) : Byte × Byte × Nat), (0xCC, 0x33, 2), (0xAA, 0x55, 1)])
    (b : Byte) {i : Nat} (hlt : i < 8) : (pairedSwap hi lo k b).getLsbD i = b.getLsbD (i ^^^ k) := by
  simp only [List.mem_cons, Prod.mk.injEq, List.not_mem_nil, or_false] at hmask
  obtain ⟨rfl, rfl, rfl⟩ | ⟨rfl, rfl, rfl⟩ | ⟨rfl, rfl, rfl⟩ := hmask <;>
    interval_cases i <;> simp [pairedSwap]

/-- The three distances flip all three bits of an index: `7 - i = i xor 1 xor 2 xor 4`. -/
theorem mirror_eq_xor : ∀ i < 8, 8 - 1 - i = i ^^^ 1 ^^^ 2 ^^^ 4 := by decide

/-- Settles O29: both sides read bit `i` from bit `7 - i`. -/
theorem threeSwapsReflectByte : Obligations.ThreeSwapsReflectByte := by
  refine fun b => BitVec.eq_of_getLsbD_eq fun i hi => ?_
  have h1 : i ^^^ 1 < 8 := Nat.xor_lt_two_pow (n := 3) hi (by decide)
  have h2 : i ^^^ 1 ^^^ 2 < 8 := Nat.xor_lt_two_pow (n := 3) h1 (by decide)
  calc (revByteSwaps b).getLsbD i
    _ = b.getLsbD (i ^^^ 1 ^^^ 2 ^^^ 4) := by
      rw [revByteSwaps_eq_pairedSwaps, pairedSwap_getLsbD (by simp) _ hi, pairedSwap_getLsbD (by simp) _ h1,
        pairedSwap_getLsbD (by simp) _ h2]
    _ = b.getLsbD (8 - 1 - i) := by rw [mirror_eq_xor i hi]
    _ = (rev (rev b)).getLsbD (8 - 1 - i) := by rw [rev_rev]
    _ = (rev b).getLsbD i := rev_getLsbD_mirror (rev b) hi

end Sys2Proof.Proofs
end

section
/-! PROOFS. The TBUILD commands against the loops of 41_table_builder.md rules R121 and R122, and their determinism
(rule R123): each of the six commands fills TBUF from POLY's low W bits alone. -/

namespace Sys2Proof.Proofs

open Sys2Proof.Machine Sys2Proof.Claims

/-- Settles O31: each of the three commands makes the change `runTbuildF` at its width. -/
theorem tbuildForwardFillsTable : Obligations.TbuildForwardFillsTable :=
  ⟨tbuildCommand_forward (by decide) rfl, tbuildCommand_forward (by decide) rfl, tbuildCommand_forward (by decide) rfl⟩

/-- Settles O32: each of the three commands makes the change `runTbuildR` at its width. -/
theorem tbuildReflectedFillsTable : Obligations.TbuildReflectedFillsTable :=
  ⟨tbuildCommand_reflected (by decide) rfl, tbuildCommand_reflected (by decide) rfl,
    tbuildCommand_reflected (by decide) rfl⟩

/-- The change a TBUILD makes fills TBUF with a table of the operand `x_W[POLY]` (41_table_builder.md rule R120). -/
theorem commandRun_tbuf_of_tbuild {i : Instr} {w : Nat}
    (hi : (i, w) ∈ [(.tbuildF8, 8), (.tbuildF16, 16), (.tbuildF32, 32), (.tbuildR8, 8), (.tbuildR16, 16),
      (.tbuildR32, 32)]) :
    ∃ table : BitVec w → Vector (Option Word) 256, ∀ s, (commandRun i s).tbuf = table (s.operand w .poly) := by
  have hrun : commandRun i = runTbuildF w ∨ commandRun i = runTbuildR w := by
    simp only [List.mem_cons, Prod.mk.injEq, List.not_mem_nil, or_false] at hi
    obtain ⟨rfl, rfl⟩ | ⟨rfl, rfl⟩ | ⟨rfl, rfl⟩ | ⟨rfl, rfl⟩ | ⟨rfl, rfl⟩ | ⟨rfl, rfl⟩ := hi
    exacts [.inl rfl, .inl rfl, .inl rfl, .inr rfl, .inr rfl, .inr rfl]
  obtain hrun | hrun := hrun
  · exact ⟨fun p => tableOf fun b => (fwdEntry p b).setWidth 32, fun s => by rw [hrun, runTbuildF, setTable_tbuf]⟩
  · exact ⟨fun p => tableOf fun b => (refEntry p b).setWidth 32, fun s => by rw [hrun, runTbuildR, setTable_tbuf]⟩

/-- Settles O33: the two tables are tables of the same operand. -/
theorem tbuildIsDeterministic : Obligations.TbuildIsDeterministic := by
  intro i w hi s u hs hu hpoly
  obtain ⟨table, htable⟩ := commandRun_tbuf_of_tbuild hi
  refine ⟨commandRun i s, commandRun i u, ?_, ?_, ?_⟩
  · rw [exec_eq_issue, issue_of_not_faulted hs]
  · rw [exec_eq_issue, issue_of_not_faulted hu]
  · rw [htable, htable]
    exact congrArg table hpoly

end Sys2Proof.Proofs
end

section
/-! PROOFS. The entries of the two tables (41_table_builder.md rules R121 to R125). Reflection carries the
right-shifting turn of rule R121 over to the left-shifting turn of rule R122, so a reflected-mode entry is a forward-mode
entry with index and entry reflected, and what holds of the forward table carries over. The forward turn is linear over
XOR, and while it meets no 1 at bit 0 it only shifts. -/

namespace Sys2Proof.Proofs

open Sys2Proof.Machine

/-! ### Reflection against XOR, shifts and extension -/

theorem rev_getLsbD {w : Nat} (x : BitVec w) (i : Nat) :
    (rev x).getLsbD i = (decide (i < w) && x.getLsbD (w - 1 - i)) := by
  rw [rev_eq_reverse, BitVec.getLsbD_reverse, BitVec.getMsbD]

theorem rev_xor {w : Nat} (x y : BitVec w) : rev (x ^^^ y) = rev x ^^^ rev y := by
  refine BitVec.eq_of_getLsbD_eq fun i hi => ?_
  simp only [rev_getLsbD, BitVec.getLsbD_xor, hi, decide_true, Bool.true_and]

theorem rev_ushiftRight {w : Nat} (x : BitVec w) (n : Nat) : rev (x >>> n) = rev x <<< n := by
  refine BitVec.eq_of_getLsbD_eq fun i hi => ?_
  rw [rev_getLsbD, BitVec.getLsbD_ushiftRight, BitVec.getLsbD_shiftLeft, rev_getLsbD]
  by_cases hn : i < n
  · rw [BitVec.getLsbD_of_ge x _ (by omega)]
    simp [hn]
  · have hlt : i - n < w := by omega
    have hindex : n + (w - 1 - i) = w - 1 - (i - n) := by omega
    simp only [hindex, hi, hn, hlt, decide_true, decide_false, Bool.not_false, Bool.true_and]

/-- A byte in the low end of a register reflects to the reflected byte in the high end. -/
theorem rev_setWidth_byte {w : Nat} (hw : 8 ≤ w) (b : Byte) : rev (b.setWidth w) = (rev b).setWidth w <<< (w - 8) := by
  refine BitVec.eq_of_getLsbD_eq fun i hi => ?_
  rw [rev_getLsbD, BitVec.getLsbD_setWidth, BitVec.getLsbD_shiftLeft, BitVec.getLsbD_setWidth, rev_getLsbD]
  by_cases hn : i < w - 8
  · rw [BitVec.getLsbD_of_ge b _ (by omega)]
    simp [hn]
  · have hmirror : w - 1 - i < w := by omega
    have hshifted : i - (w - 8) < w := by omega
    have hbyte : i - (w - 8) < 8 := by omega
    have hindex : w - 1 - i = 8 - 1 - (i - (w - 8)) := by omega
    simp only [hi, hn, hmirror, hshifted, hbyte, ← hindex, decide_true, decide_false, Bool.not_false,
      Bool.true_and]

/-! ### The two modes -/

/-- The turn of rule R121 in the reflected register is the turn of rule R122. -/
theorem rev_fwdStep {w : Nat} (hw : 0 < w) (p r : BitVec w) : rev (fwdStep (rev p) r) = refStep p (rev r) := by
  have htest : (rev r).getLsbD (w - 1) = r.getLsbD 0 := rev_getLsbD_mirror r hw
  rw [fwdStep, refStep, htest, apply_ite rev, rev_xor, rev_ushiftRight, rev_rev]

/-- 41_table_builder.md rule R124. -/
theorem rev_fwdEntry {w : Nat} (hw : 8 ≤ w) (p : BitVec w) (b : Byte) : rev (fwdEntry p b) = refEntry p (rev b) := by
  have hturns : Function.Semiconj rev (fwdStep (rev p)) (refStep p) := rev_fwdStep (by omega) p
  rw [fwdEntry, (hturns.iterate_right 8).eq, rev_setWidth_byte hw, refEntry]

theorem refEntry_eq_rev_fwdEntry {w : Nat} (hw : 8 ≤ w) (p : BitVec w) (d : Byte) :
    refEntry p d = rev (fwdEntry p (rev d)) := by
  rw [rev_fwdEntry hw, rev_rev]

/-! ### Linearity over XOR -/

theorem fwdStep_xor {w : Nat} (rp x y : BitVec w) : fwdStep rp (x ^^^ y) = fwdStep rp x ^^^ fwdStep rp y := by
  have hshift : (x ^^^ y) >>> 1 = x >>> 1 ^^^ y >>> 1 := BitVec.ushiftRight_xor_distrib x y 1
  rw [fwdStep, fwdStep, fwdStep, BitVec.getLsbD_xor, hshift]
  cases x.getLsbD 0 <;> cases y.getLsbD 0
  · rfl
  · exact BitVec.xor_assoc ..
  · show x >>> 1 ^^^ y >>> 1 ^^^ rp = x >>> 1 ^^^ rp ^^^ y >>> 1
    ac_rfl
  · show x >>> 1 ^^^ y >>> 1 = x >>> 1 ^^^ rp ^^^ (y >>> 1 ^^^ rp)
    have hcancel : x >>> 1 ^^^ rp ^^^ (y >>> 1 ^^^ rp) = x >>> 1 ^^^ y >>> 1 ^^^ (rp ^^^ rp) := by ac_rfl
    rw [hcancel, BitVec.xor_self, BitVec.xor_zero]

theorem fwdStep_iterate_xor {w : Nat} (rp : BitVec w) (n : Nat) (x y : BitVec w) :
    (fwdStep rp)^[n] (x ^^^ y) = (fwdStep rp)^[n] x ^^^ (fwdStep rp)^[n] y :=
  Function.Semiconj₂.iterate (fwdStep_xor rp) n x y

theorem fwdEntry_xor {w : Nat} (p : BitVec w) (a b : Byte) : fwdEntry p (a ^^^ b) = fwdEntry p a ^^^ fwdEntry p b := by
  rw [fwdEntry, BitVec.setWidth_xor, fwdStep_iterate_xor, fwdEntry, fwdEntry]

/-! ### Turns that only shift -/

/-- As long as the bits that reach bit 0 are 0, the turns of rule R121 shift and XOR nothing. -/
theorem fwdStep_iterate_of_low_zero {w : Nat} (rp : BitVec w) {n : Nat} {r : BitVec w}
    (hlow : ∀ i < n, r.getLsbD i = false) : (fwdStep rp)^[n] r = r >>> n := by
  induction n with
  | zero => simp
  | succ n ih =>
    have hbit : (r >>> n).getLsbD 0 = false := by
      rw [BitVec.getLsbD_ushiftRight]
      exact hlow n (by omega)
    rw [Function.iterate_succ_apply', ih fun i hi => hlow i (by omega), fwdStep, hbit, BitVec.shiftRight_add]
    rfl

/-- A byte is gone from the register after eight shifts. -/
theorem setWidth_byte_ushiftRight {w : Nat} (b : Byte) : b.setWidth w >>> 8 = 0#w := by
  refine BitVec.eq_of_getLsbD_eq fun i _ => ?_
  rw [BitVec.getLsbD_ushiftRight, BitVec.getLsbD_setWidth, BitVec.getLsbD_of_ge b _ (by omega)]
  simp

theorem fwdEntry_zero {w : Nat} (p : BitVec w) : fwdEntry p 0 = 0 := by
  rw [fwdEntry, fwdStep_iterate_of_low_zero] <;> simp

/-- Index 0x80 shifts its one bit down seven times, and the eighth turn brings in the reflected polynomial. -/
theorem fwdEntry_0x80 {w : Nat} (hw : 8 ≤ w) (p : BitVec w) : fwdEntry p 0x80 = rev p := by
  have htest : ((0x80 : Byte).setWidth w >>> 7).getLsbD 0 = true := by
    rw [BitVec.getLsbD_ushiftRight, BitVec.getLsbD_setWidth]
    simp [show 7 < w by omega]
  have hgone : (0x80 : Byte).setWidth w >>> 7 >>> 1 = 0#w := by
    rw [← BitVec.shiftRight_add]
    exact setWidth_byte_ushiftRight 0x80
  rw [fwdEntry, Function.iterate_succ_apply', fwdStep_iterate_of_low_zero, fwdStep, htest, hgone]
  · exact BitVec.zero_xor
  · intro i hi
    rw [BitVec.getLsbD_setWidth]
    interval_cases i <;> simp

theorem refEntry_zero {w : Nat} (hw : 8 ≤ w) (p : BitVec w) : refEntry p 0 = 0 := by
  have hindex : rev (0 : Byte) = 0 := by decide
  rw [refEntry_eq_rev_fwdEntry hw, hindex, fwdEntry_zero, rev_eq_reverse]
  exact BitVec.reverse_eq_zero_iff.2 rfl

theorem refEntry_one {w : Nat} (hw : 8 ≤ w) (p : BitVec w) : refEntry p 1 = p := by
  have hindex : rev (1 : Byte) = 0x80 := by decide
  rw [refEntry_eq_rev_fwdEntry hw, hindex, fwdEntry_0x80 hw, rev_rev]

theorem refEntry_xor {w : Nat} (hw : 8 ≤ w) (p : BitVec w) (a b : Byte) :
    refEntry p (a ^^^ b) = refEntry p a ^^^ refEntry p b := by
  simp only [refEntry_eq_rev_fwdEntry hw, rev_xor, fwdEntry_xor]

/-- Settles O34: reflection carries one mode's turns over to the other's; the rule's example is two entries. -/
theorem tableModesAreRelated : Obligations.TableModesAreRelated :=
  ⟨fun _ => rev_fwdEntry, by decide, refEntry_one (by decide) _⟩

/-- Settles O35: the forward table by its turns, the reflected table by rule R124. -/
theorem tableEntriesAreLinear : Obligations.TableEntriesAreLinear := by
  intro w hwidth p
  have hw : 8 ≤ w := by omega
  exact ⟨⟨fwdEntry_zero p, refEntry_zero hw p⟩, ⟨fwdEntry_0x80 hw p, refEntry_one hw p⟩,
    fun a b => ⟨fwdEntry_xor p a b, refEntry_xor hw p a b⟩,
    fun b => ⟨(fwdEntry p b).isLt, (refEntry p b).isLt⟩⟩

end Sys2Proof.Proofs
end

section
/-! PROOFS. The table-driven evaluator is the bit-serial register (41_table_builder.md rule R121; 42_crc_evaluator.md
rule R143). Eight turns are linear over XOR, so the register splits into its low byte, whose turns are a table entry,
and the rest, which meets no 1 at bit 0 in eight turns and so only shifts. -/

namespace Sys2Proof.Proofs

open Sys2Proof.Machine Sys2Proof.Claims

/-- Eight turns of the register are a table lookup of its low byte and a shift by a byte. -/
theorem fwdStep_iterate_eight {w : Nat} (p r : BitVec w) :
    (fwdStep (rev p))^[8] r = fwdEntry p (r.setWidth 8) ^^^ r >>> 8 := by
  have hrest : ∀ i < 8, (r ^^^ (r.setWidth 8).setWidth w).getLsbD i = false := by
    intro i hi
    by_cases hiw : i < w
    · simp [hi, hiw, -BitVec.getLsbD_eq_getElem]
    · exact BitVec.getLsbD_of_ge _ i (by omega)
  calc (fwdStep (rev p))^[8] r
    _ = (fwdStep (rev p))^[8] ((r.setWidth 8).setWidth w ^^^ (r ^^^ (r.setWidth 8).setWidth w)) := by
      rw [BitVec.xor_comm r, ← BitVec.xor_assoc, BitVec.xor_self, BitVec.zero_xor]
    _ = fwdEntry p (r.setWidth 8) ^^^ (r ^^^ (r.setWidth 8).setWidth w) >>> 8 := by
      rw [fwdStep_iterate_xor, fwdStep_iterate_of_low_zero _ hrest, fwdEntry]
    _ = fwdEntry p (r.setWidth 8) ^^^ r >>> 8 := by
      rw [BitVec.ushiftRight_xor_distrib, setWidth_byte_ushiftRight, BitVec.xor_zero]

/-- One byte of rule R143 by the table is the byte's eight bits through the register. -/
theorem foldByte_eq_serialByte {w : Nat} (p : BitVec w) (ir : Bool) (crc : BitVec w) (b : Byte) :
    foldByte p ir crc b = serialByte p crc (entering ir b) := by
  have hturns : serialByte p crc (entering ir b) = (fwdStep (rev p))^[8] (crc ^^^ (entering ir b).setWidth w) := by
    rw [rev_eq_reverse]
    exact List.foldl_const (fwdStep p.reverse) _ (List.range 8)
  rw [hturns, fwdStep_iterate_eight, BitVec.ushiftRight_xor_distrib, setWidth_byte_ushiftRight, BitVec.xor_zero,
    foldByte_eq, fwdEntry_eq_forwardTable]

/-- Steps 2 to 6 with the buffer's bits fed through the register. -/
theorem crcOf_eq_serial {w : Nat} (p crc init xin xout : BitVec w) (ir rr : Bool) (bytes : List Byte) :
    crcOf p crc init xin xout ir rr bytes =
      finished rr ((bytes.map (entering ir)).foldl (serialByte p) (seeded crc init ^^^ xin)) xout := by
  simp only [crcOf, ← foldByte_eq, foldByte_eq_serialByte, List.foldl_map]

/-- Settles O44: the two commands are EVAL commands, whose value `crcOf_eq_serial` states through the register. -/
theorem evalRefinesBitSerialRegister : Obligations.EvalRefinesBitSerialRegister := by
  intro ir rr s bytes i w hs hi hreg hsize hbytes
  obtain ⟨j, rfl, heval⟩ : ∃ j : Bool → Bool → Instr, i = j ir rr ∧ EvalCommand w j := by
    simp only [List.mem_cons, Prod.mk.injEq, List.not_mem_nil, or_false] at hi
    obtain ⟨rfl, rfl⟩ | ⟨rfl, rfl⟩ := hi
    exacts [⟨.eval16, rfl, evalCommand_of_commandRun fun _ _ => rfl⟩,
      ⟨.eval32, rfl, evalCommand_of_commandRun fun _ _ => rfl⟩]
  obtain ⟨t, hexec, hresult, -⟩ := heval ir rr s bytes hs hreg hsize hbytes
  exact ⟨t, hexec, crcOf_eq_serial .. ▸ hresult⟩

end Sys2Proof.Proofs
end

section
/-! PROOFS. The registry and the EVAL commands' outcomes (42_crc_evaluator.md rules R140 to R146): the seven keys with
their tables, the fault of every other polynomial, and the completing command, whose value is steps 2 to 6 over the
buffer. -/

namespace Sys2Proof.Proofs

open Sys2Proof.Machine Sys2Proof.Claims

/-- A registry table is the loop of 41_table_builder.md rule R121 (10_state.md rule R30). -/
theorem regTable_eq_forwardTable {w : Nat} (p : BitVec w) (i : Byte) : regTable p i = forwardTable p i :=
  fwdEntry_eq_forwardTable p i

/-- Settles O36: the keys for every width and polynomial, the tables entry by entry, and the rule's rows one by one. -/
theorem registryHoldsSevenKeys : Obligations.RegistryHoldsSevenKeys := by
  refine ⟨fun _ => registryHas_iff_registered, fun _ => regTable_eq_forwardTable, ?rows16, ?rows32⟩ <;>
    intro p e1 e80 hrow <;>
    simp only [List.mem_cons, Prod.mk.injEq, List.not_mem_nil, or_false] at hrow
  case rows16 => obtain ⟨rfl, rfl, rfl⟩ | ⟨rfl, rfl, rfl⟩ | ⟨rfl, rfl, rfl⟩ := hrow <;> decide
  case rows32 =>
    obtain ⟨rfl, rfl, rfl⟩ | ⟨rfl, rfl, rfl⟩ | ⟨rfl, rfl, rfl⟩ | ⟨rfl, rfl, rfl⟩ := hrow <;> decide

/-- Settles O37: both commands' change is the evaluation of their width. -/
theorem evalComputesSixSteps : Obligations.EvalComputesSixSteps :=
  ⟨evalCommand_of_commandRun fun _ _ => rfl, evalCommand_of_commandRun fun _ _ => rfl⟩

/-- The first check stops an evaluation with a polynomial that is no registry key, whatever SIZE and the buffer are. -/
theorem evalChecks_of_unregistered {w : Nat} {s : State} (hreg : ¬ Registered w (s.operand w .poly)) :
    evalChecks w s = .error .unsupportedPoly := by
  have hkey : registryHas (s.operand w .poly) = false := by
    rw [← Bool.not_eq_true, registryHas_iff_registered]
    exact hreg
  simp [evalChecks, hkey]

/-- Settles O38: at width 8 no polynomial passes the first check, at the other two widths no unregistered one does. -/
theorem unregisteredPolynomialFaults : Obligations.UnregisteredPolynomialFaults := fun ir rr s hs =>
  ⟨faults_of_evalChecks_error (ir := ir) (rr := rr) hs rfl rfl (evalChecks_width8 s),
    fun hreg => faults_of_evalChecks_error (ir := ir) (rr := rr) hs rfl rfl (evalChecks_of_unregistered hreg),
    fun hreg => faults_of_evalChecks_error (ir := ir) (rr := rr) hs rfl rfl (evalChecks_of_unregistered hreg)⟩

/-- An EVAL at a width of the registry whose checks pass completes with the value of steps 2 to 6. -/
theorem exec_eval {ir rr : Bool} {i : Instr} {w : Nat} (hi : (i, w) ∈ [(.eval16 ir rr, 16), (.eval32 ir rr, 32)])
    {s : State} {bytes : List Byte} (hs : s.faulted = false) (hreg : Registered w (s.args.poly.setWidth w))
    (hsize : s.args.addr.toNat + s.args.size.toNat ≤ 2 ^ 32) (hbytes : BufferIs s bytes) :
    ∃ t, exec i s = .next t ∧
      t.result = (crcOf (s.args.poly.setWidth w) (s.args.crc.setWidth w) (s.args.init.setWidth w)
        (s.args.xin.setWidth w) (s.args.xout.setWidth w) ir rr bytes).setWidth 32 ∧
      t = { s with result := t.result, draws := s.draws + 1 } := by
  simp only [List.mem_cons, Prod.mk.injEq, List.not_mem_nil, or_false] at hi
  obtain ⟨rfl, rfl⟩ | ⟨rfl, rfl⟩ := hi
  · exact evalComputesSixSteps.1 ir rr s bytes hs hreg hsize hbytes
  · exact evalComputesSixSteps.2 ir rr s bytes hs hreg hsize hbytes

/-- The buffer of SIZE = 0 is the empty one, whatever data memory holds. -/
theorem bufferIs_nil {s : State} (hsize : s.args.size = 0) : BufferIs s [] :=
  ⟨by simp [hsize], fun _ hk => absurd hk (Nat.not_lt_zero _)⟩

/-- Settles O42: the empty buffer folds nothing, and the first command leaves the second one's operands as they were. -/
theorem zeroLengthEvalSkipsFold : Obligations.ZeroLengthEvalSkipsFold := by
  intro ir rr s i w hs hi hreg hzero
  have hsize : s.args.addr.toNat + s.args.size.toNat ≤ 2 ^ 32 := by
    rw [hzero]
    exact s.args.addr.isLt.le
  obtain ⟨t, hexec, hresult, hframe⟩ := exec_eval hi hs hreg hsize (bufferIs_nil hzero)
  have hargs : t.args = s.args := by rw [hframe]
  have hfaulted : t.faulted = false := by
    rw [hframe]
    exact hs
  obtain ⟨u, hagain, hrepeat, -⟩ :=
    exec_eval hi hfaulted (hargs ▸ hreg) (hargs ▸ hsize) (bufferIs_nil (hargs ▸ hzero))
  exact ⟨t, u, hexec, hagain, by rw [hrepeat, hresult, hargs], hresult⟩

end Sys2Proof.Proofs
end

section
/-! PROOFS. The evaluator's register against the catalog's bitwise model (42_crc_evaluator.md rule R151): the register
is the bit-reversed image of the catalog's. Reflection carries the turn of 41_table_builder.md rule R121 over to that
of rule R122, so it carries one byte, and then the whole buffer, from the one register to the other. -/

namespace Sys2Proof.Proofs

open Sys2Proof.Machine Sys2Proof.Claims

/-- The registry has the two widths 16 and 32 only. -/
theorem registered_width {w : Nat} {p : BitVec w} (hreg : Registered w p) : 8 ≤ w ∧ w ≤ 32 := by
  obtain ⟨rfl, -⟩ | ⟨rfl, -⟩ := hreg <;> decide

/-- One byte of rule R143 is eight turns of the register after the byte has met its low end. -/
theorem foldByte_eq_turns {w : Nat} (p : BitVec w) (ir : Bool) (crc : BitVec w) (b : Byte) :
    foldByte p ir crc b = (fwdStep (rev p))^[8] (crc ^^^ (entering ir b).setWidth w) := by
  rw [foldByte_eq_serialByte, rev_eq_reverse]
  exact List.foldl_const (fwdStep p.reverse) _ (List.range 8)

/-- Steps 2 to 6 with step 4 as the model runs it. -/
theorem crcOf_eq_foldBuffer {w : Nat} (p crc init xin xout : BitVec w) (ir rr : Bool) (bytes : List Byte) :
    crcOf p crc init xin xout ir rr bytes = finished rr (foldBuffer p ir (seeded crc init) xin bytes) xout := by
  simp only [crcOf, foldBuffer, ← foldByte_eq]

/-- One byte through the catalog's register: the byte meets its high end, then eight turns of the left shift. -/
def catalogByte {w : Nat} (p : BitVec w) (refin : Bool) (r : BitVec w) (b : Byte) : BitVec w :=
  (refStep p)^[8] (r ^^^ (entering refin b).setWidth w <<< (w - 8))

/-- The catalog's CRC feeds the buffer through its register byte by byte. -/
theorem catalogCrc_eq {w : Nat} (p init xorout : BitVec w) (refin refout : Bool) (bytes : List Byte) :
    catalogCrc p init xorout refin refout bytes =
      finished refout (bytes.foldl (catalogByte p refin) init) xorout := by
  have hbyte : catalogByte p refin = fun r b =>
      (List.range 8).foldl (fun r _ => refStep p r) (r ^^^ (entering refin b).setWidth w <<< (w - 8)) :=
    funext₂ fun _ _ => (List.foldl_const (refStep p) _ (List.range 8)).symm
  simp only [catalogCrc, hbyte, refStep, BitVec.msb_eq_getLsbD_last]

/-- A byte that enters the one register reflected enters the other as it is. -/
theorem rev_entering_not (refin : Bool) (b : Byte) : rev (entering (!refin) b) = entering refin b := by
  cases refin
  · exact (congrArg rev (rev_eq_reverse b).symm).trans (rev_rev b)
  · exact rev_eq_reverse b

/-- The evaluator's byte step, reflected, is the catalog's byte step on the reflected register. -/
theorem rev_foldByte {w : Nat} (hw : 8 ≤ w) (p : BitVec w) (refin : Bool) (crc : BitVec w) (b : Byte) :
    rev (foldByte p (!refin) crc b) = catalogByte p refin (rev crc) b := by
  have hturns : Function.Semiconj rev (fwdStep (rev p)) (refStep p) := rev_fwdStep (by omega) p
  rw [foldByte_eq_turns, (hturns.iterate_right 8).eq, rev_xor, rev_setWidth_byte hw, rev_entering_not, catalogByte]

/-- The catalog's register after a buffer is the reflection of the evaluator's, if it was so before. -/
theorem foldl_catalogByte_rev {w : Nat} (hw : 8 ≤ w) (p : BitVec w) (refin : Bool) (crc : BitVec w)
    (bytes : List Byte) :
    bytes.foldl (catalogByte p refin) (rev crc) = rev (bytes.foldl (foldByte p (!refin)) crc) :=
  List.foldl_hom rev fun crc b => (rev_foldByte hw p refin crc b).symm

/-- An output that the catalog leaves unreflected must be reflected back, and the other way round. -/
theorem finished_not {w : Nat} (refout : Bool) (crc xout : BitVec w) :
    finished (!refout) crc xout = finished refout (rev crc) xout := by
  cases refout
  · rw [rev_eq_reverse]
    rfl
  · simp [finished, rev_eq_reverse]

/-- Where the incoming CRC is 0 the seed is INIT, nonzero or not (42_crc_evaluator.md rule R142). -/
theorem seeded_zero_crc {w : Nat} (init : BitVec w) : seeded 0 init = init := by
  by_cases hinit : init = 0
  · rw [hinit, seeded, ite_self]
  · rw [seeded, if_pos ⟨rfl, hinit⟩]

/-- The mapping of rule R151, on values. -/
theorem crcOf_eq_catalogCrc {w : Nat} (hw : 8 ≤ w) (p init xout : BitVec w) (refin refout : Bool)
    (bytes : List Byte) :
    crcOf p 0 init.reverse 0 xout (!refin) (!refout) bytes = catalogCrc p init xout refin refout bytes := by
  have hfold : rev (foldBuffer p (!refin) (rev init) 0 bytes) = bytes.foldl (catalogByte p refin) init := by
    have hzero : rev init ^^^ 0 = rev init := BitVec.xor_zero
    rw [foldBuffer, hzero, ← foldl_catalogByte_rev hw, rev_rev]
  rw [crcOf_eq_foldBuffer, seeded_zero_crc, finished_not, ← rev_eq_reverse, hfold, catalogCrc_eq]

/-- Settles O45: the command completes with the value of steps 2 to 6, which the mapping makes the catalog's. -/
theorem evalComputesCatalogModel : Obligations.EvalComputesCatalogModel := by
  intro refin refout s bytes i w init hs hi hreg hsize hbytes hcrc hxin hinit
  obtain ⟨t, hexec, hresult, -⟩ := exec_eval hi hs hreg hsize hbytes
  obtain ⟨hw, -⟩ := registered_width hreg
  rw [hcrc, hxin, hinit, crcOf_eq_catalogCrc hw] at hresult
  exact ⟨t, hexec, hresult⟩

end Sys2Proof.Proofs
end

section
/-! PROOFS. The evaluator's register forgets nothing: a registry polynomial is odd, so the bit that a turn shifts out
shows again at bit W-1, and two registers that differ still differ after any buffer. This is what makes the seam of
42_crc_evaluator.md rule R148 visible in RESULT. -/

namespace Sys2Proof.Proofs

open Sys2Proof.Machine Sys2Proof.Claims

/-- A registry polynomial has bit 0 set. -/
theorem registered_odd {w : Nat} {p : BitVec w} (hreg : Registered w p) : p.getLsbD 0 = true := by
  have hodd : p.toNat % 2 = 1 := by
    simp only [Registered, List.mem_cons, List.not_mem_nil, or_false] at hreg
    omega
  simpa [BitVec.getLsbD, Nat.testBit_zero] using hodd

/-- Each bit after a turn of 41_table_builder.md rule R121. -/
theorem fwdStep_getLsbD {w : Nat} (rp r : BitVec w) (i : Nat) :
    (fwdStep rp r).getLsbD i = (r.getLsbD (i + 1) ^^ (r.getLsbD 0 && rp.getLsbD i)) := by
  rw [fwdStep]
  cases r.getLsbD 0 <;> simp [-BitVec.getLsbD_eq_getElem, Nat.add_comm 1]

theorem fwdStep_injective {w : Nat} {rp : BitVec w} (htop : rp.getLsbD (w - 1) = true) :
    Function.Injective (fwdStep rp) := by
  intro x y h
  have hbit (i : Nat) : (x.getLsbD (i + 1) ^^ (x.getLsbD 0 && rp.getLsbD i)) =
      (y.getLsbD (i + 1) ^^ (y.getLsbD 0 && rp.getLsbD i)) := by
    rw [← fwdStep_getLsbD, ← fwdStep_getLsbD, h]
  have hlow : x.getLsbD 0 = y.getLsbD 0 := by
    have hout := hbit (w - 1)
    rw [BitVec.getLsbD_of_ge x _ (by omega), BitVec.getLsbD_of_ge y _ (by omega), htop] at hout
    simpa using hout
  refine BitVec.eq_of_getLsbD_eq fun i _ => ?_
  cases i with
  | zero => exact hlow
  | succ i => simpa [hlow] using hbit i

section OddPolynomial

variable {w : Nat} {p : BitVec w} (hw : 0 < w) (hodd : p.getLsbD 0 = true)
include hw hodd

theorem foldByte_injective (ir : Bool) (b : Byte) : Function.Injective fun crc => foldByte p ir crc b := by
  have htop : (rev p).getLsbD (w - 1) = true := (rev_getLsbD_mirror p hw).trans hodd
  intro x y h
  simp only [foldByte_eq_turns] at h
  exact (BitVec.xor_left_inj _).1 ((fwdStep_injective htop).iterate 8 h)

theorem foldl_foldByte_injective (ir : Bool) (bytes : List Byte) :
    Function.Injective fun crc => bytes.foldl (foldByte p ir) crc := by
  induction bytes with
  | nil => exact Function.injective_id
  | cons b bytes ih => exact ih.comp (foldByte_injective hw hodd ir b)

end OddPolynomial

end Sys2Proof.Proofs
end

section
/-! PROOFS. Two EVALs over a split buffer against the one over the whole (42_crc_evaluator.md rules R147, R148). The
commands' side is said once: all three complete, over the parts A and B and over A followed by B. What is left is about
values: RESULT = register ^ X under RR = 0 and XIN = XOUT = X, so the second command resumes from the register, unless
it reseeds. -/

namespace Sys2Proof.Proofs

open Sys2Proof.Machine Sys2Proof.Claims

/-! ### The three commands -/

/-- `bytes` stand in data memory from address `a` on, and no other agent writes them. -/
def StandsAt (s : State) (a : Nat) (bytes : List Byte) : Prop :=
  ∀ k (h : k < bytes.length), a + k ∉ s.contended ∧ s.mem.read (a + k) = some bytes[k]

theorem standsAt_append_left {s : State} {a : Nat} {A B : List Byte} (h : StandsAt s a (A ++ B)) :
    StandsAt s a A := by
  intro k hk
  have hbyte := h k (List.length_append ▸ Nat.lt_add_right _ hk)
  rwa [List.getElem_append_left hk] at hbyte

theorem standsAt_append_right {s : State} {a : Nat} {A B : List Byte} (h : StandsAt s a (A ++ B)) :
    StandsAt s (a + A.length) B := by
  intro k hk
  have hbyte := h (A.length + k) (by simpa using hk)
  simpa [Nat.add_assoc] using hbyte

/-- Bytes that stand in data memory are the buffer of any state that has ADDR and SIZE there and the same memory. -/
theorem bufferIs_of_standsAt {s u : State} {bytes : List Byte} (h : StandsAt s u.args.addr.toNat bytes)
    (hmem : u.mem = s.mem) (hcontended : u.contended = s.contended) (hsize : bytes.length = u.args.size.toNat) :
    BufferIs u bytes := by
  refine ⟨hsize, fun k hk => ?_⟩
  obtain ⟨hstill, hread⟩ := h k hk
  rw [memRead_of_not_contended (hcontended ▸ hstill), hmem, hread]

/-- The two parts of a chunk setting stand in data memory one after the other. -/
theorem standsAt_of_chunkSetting {w : Nat} {s : State} {n m : Nat} (h : ChunkSetting w s n m) :
    ∃ A B : List Byte, A.length = n ∧ B.length = m ∧ StandsAt s s.args.addr.toNat (A ++ B) := by
  have hheld {k : Nat} (hk : k < n + m) : s.memRead (s.args.addr.toNat + k) = s.mem.read (s.args.addr.toNat + k) :=
    memRead_of_not_contended (h.heldStill k hk)
  have hsome : s.readBytes s.args.addr.toNat (n + m) ≠ none := fun hnone => by
    obtain ⟨k, hk, hread⟩ := (readBytes_eq_none_iff s _ _).1 hnone
    simpa [← hheld hk, hread] using h.readable k hk
  obtain ⟨bytes, hbytes⟩ := Option.ne_none_iff_exists'.1 hsome
  obtain ⟨hlength, hreads⟩ := (readBytes_eq_some_iff s _ _ bytes).1 hbytes
  refine ⟨bytes.take n, bytes.drop n, by simp [hlength], by simp [hlength], ?_⟩
  rw [List.take_append_drop]
  exact fun k hk => ⟨h.heldStill k (hlength ▸ hk), (hheld (hlength ▸ hk)).symm.trans (hreads k hk)⟩

/-- Steps 2 to 6 under the settings of `s`, from the CRC and INIT given. -/
def crcUnder (w : Nat) (s : State) (ir rr : Bool) (crc init : Word) (bytes : List Byte) : BitVec w :=
  crcOf (s.args.poly.setWidth w) (crc.setWidth w) (init.setWidth w) (s.args.xin.setWidth w) (s.args.xout.setWidth w)
    ir rr bytes

theorem toNat_ofNat_of_le {k l : Nat} (hk : k ≤ l) (hl : l < 2 ^ 32) : (BitVec.ofNat 32 k).toNat = k :=
  Nat.mod_eq_of_lt (by omega)

section Commands

variable {w : Nat} {i : Bool → Bool → Instr} (heval : EvalCommand w i) {s : State} {n m : Nat}
  (h : ChunkSetting w s n m) (ir rr : Bool)
include heval h

/-- The command over the first `k` bytes of a chunk setting completes. -/
theorem exec_firstBytes {k : Nat} {bytes : List Byte} (hk : k ≤ n + m) (hlength : bytes.length = k)
    (hstands : StandsAt s s.args.addr.toNat bytes) :
    ∃ t, exec (i ir rr) (s.setArg .size (BitVec.ofNat 32 k)) = .next t ∧
      t.result = (crcUnder w s ir rr s.args.crc s.args.init bytes).setWidth 32 ∧
      t = { s.setArg .size (BitVec.ofNat 32 k) with result := t.result, draws := s.draws + 1 } := by
  obtain ⟨hs, hreg, hfits, hrange, -, -⟩ := h
  have hsize : (BitVec.ofNat 32 k).toNat = k := toNat_ofNat_of_le hk hfits
  have hend : s.args.addr.toNat + (BitVec.ofNat 32 k).toNat ≤ 2 ^ 32 := by omega
  exact heval ir rr (s.setArg .size (BitVec.ofNat 32 k)) bytes hs hreg hend
    (bufferIs_of_standsAt hstands rfl rfl (hlength.trans hsize.symm))

/-- After the command over the first part, the host's second command completes over the second part. Where that part is
empty, ADDR may have wrapped. -/
theorem exec_chained {bytes : List Byte} (hlength : bytes.length = m)
    (hstands : StandsAt s (s.args.addr.toNat + n) bytes) {t : State}
    (ht : t = { s.setArg .size (BitVec.ofNat 32 n) with result := t.result, draws := s.draws + 1 })
    (crc2 init2 : Word) :
    ∃ u, exec (i ir rr) (chained t crc2 init2 n m) = .next u ∧
      u.result = (crcUnder w s ir rr crc2 init2 bytes).setWidth 32 := by
  have hrun := heval ir rr (chained t crc2 init2 n m) bytes
  obtain ⟨r, rfl⟩ : ∃ r, t = { s.setArg .size (BitVec.ofNat 32 n) with result := r, draws := s.draws + 1 } :=
    ⟨_, ht⟩
  obtain ⟨hs, hreg, hfits, hrange, -, -⟩ := h
  have hsize : (BitVec.ofNat 32 m).toNat = m := toNat_ofNat_of_le (Nat.le_add_left m n) hfits
  have haddr (hm : 0 < m) : (s.args.addr + BitVec.ofNat 32 n).toNat = s.args.addr.toNat + n := by
    rw [BitVec.toNat_add, toNat_ofNat_of_le (Nat.le_add_right n m) hfits]
    omega
  have hend : (s.args.addr + BitVec.ofNat 32 n).toNat + (BitVec.ofNat 32 m).toNat ≤ 2 ^ 32 := by
    rw [hsize]
    obtain rfl | hm := Nat.eq_zero_or_pos m
    · exact (s.args.addr + BitVec.ofNat 32 n).isLt.le
    · rw [haddr hm]
      omega
  have hpart : StandsAt s (s.args.addr + BitVec.ofNat 32 n).toNat bytes := fun k hk => by
    rw [haddr (by omega)]
    exact hstands k hk
  obtain ⟨u, hexec, hresult, -⟩ := hrun hs hreg hend
    (bufferIs_of_standsAt hpart rfl rfl (hlength.trans hsize.symm))
  exact ⟨u, hexec, hresult⟩

/-- In a chunk setting the command over the first part A, the one over the whole, and, after the first, the one over the
second part B all complete, for every CRC and INIT that the host gives the last. -/
theorem exec_chunks :
    ∃ (A B : List Byte) (t1 tw : State),
      exec (i ir rr) (s.setArg .size (BitVec.ofNat 32 n)) = .next t1 ∧
      exec (i ir rr) (s.setArg .size (BitVec.ofNat 32 (n + m))) = .next tw ∧
      t1.result = (crcUnder w s ir rr s.args.crc s.args.init A).setWidth 32 ∧
      tw.result = (crcUnder w s ir rr s.args.crc s.args.init (A ++ B)).setWidth 32 ∧
      ∀ crc2 init2, ∃ t2, exec (i ir rr) (chained t1 crc2 init2 n m) = .next t2 ∧
        t2.result = (crcUnder w s ir rr crc2 init2 B).setWidth 32 := by
  obtain ⟨A, B, hA, hB, hstands⟩ := standsAt_of_chunkSetting h
  have hAB : (A ++ B).length = n + m := by rw [List.length_append, hA, hB]
  obtain ⟨t1, hexec1, hresult1, hframe⟩ :=
    exec_firstBytes heval h ir rr (Nat.le_add_right n m) hA (standsAt_append_left hstands)
  obtain ⟨tw, hexecw, hresultw, -⟩ := exec_firstBytes heval h ir rr le_rfl hAB hstands
  exact ⟨A, B, t1, tw, hexec1, hexecw, hresult1, hresultw,
    exec_chained heval h ir rr hB (hA ▸ standsAt_append_right hstands) hframe⟩

end Commands

/-! ### The values -/

/-- A running CRC goes on where INIT is 0 or the CRC is not (42_crc_evaluator.md rule R142). -/
theorem seeded_of_running {w : Nat} {crc init : BitVec w} (h : init = 0 ∨ crc ≠ 0) : seeded crc init = crc :=
  if_neg fun ⟨hcrc, hinit⟩ => h.elim hinit fun hne => hne hcrc

section Values

variable {w : Nat} (p crc init x : BitVec w) (ir : Bool) (bytes : List Byte)

theorem crcOf_unreflected :
    crcOf p crc init x x ir false bytes = bytes.foldl (foldByte p ir) (seeded crc init ^^^ x) ^^^ x :=
  crcOf_eq_foldBuffer p crc init x x ir false bytes

/-- XOR with the common mask gives the register back. -/
theorem crcOf_unreflected_xor :
    crcOf p crc init x x ir false bytes ^^^ x = bytes.foldl (foldByte p ir) (seeded crc init ^^^ x) := by
  rw [crcOf_unreflected, BitVec.xor_assoc, BitVec.xor_self, BitVec.xor_zero]

variable {p crc init x ir} {A : List Byte} (B : List Byte) {init2 : BitVec w}

/-- 42_crc_evaluator.md rule R147, on values. -/
theorem crcOf_chained (hinit : init2 = 0 ∨ crcOf p crc init x x ir false A ≠ 0) :
    crcOf p (crcOf p crc init x x ir false A) init2 x x ir false B = crcOf p crc init x x ir false (A ++ B) := by
  rw [crcOf_unreflected, seeded_of_running hinit, crcOf_unreflected_xor, crcOf_unreflected p crc, List.foldl_append]

/-- 42_crc_evaluator.md rule R148, on values: the whole goes on from the register X, the second part from INIT ^ X. -/
theorem crcOf_seam_ne (hw : 0 < w) (hodd : p.getLsbD 0 = true) (hinit : init2 ≠ 0)
    (hzero : crcOf p crc init x x ir false A = 0) :
    crcOf p (crcOf p crc init x x ir false A) init2 x x ir false B ≠ crcOf p crc init x x ir false (A ++ B) := by
  have hregister : A.foldl (foldByte p ir) (seeded crc init ^^^ x) = 0 ^^^ x := by
    rw [← crcOf_unreflected_xor, hzero]
  rw [hzero, crcOf_unreflected, seeded_zero_crc, crcOf_unreflected, List.foldl_append, hregister, Ne,
    BitVec.xor_left_inj]
  intro h
  exact hinit ((BitVec.xor_left_inj x).1 (foldl_foldByte_injective hw hodd ir B h))

end Values

/-! ### The statements -/

/-- Zero-extension to a word loses nothing of a value of at most 32 bits. -/
theorem setWidth_word_leftInverse {w : Nat} (hw : w ≤ 32) :
    Function.LeftInverse (BitVec.setWidth w : Word → BitVec w) (BitVec.setWidth 32) := fun x => by
  rw [BitVec.setWidth_setWidth_of_le x hw, BitVec.setWidth_eq]

theorem setWidth_word_eq_zero_iff {w : Nat} (hw : w ≤ 32) {x : BitVec w} : x.setWidth 32 = 0 ↔ x = 0 :=
  (setWidth_word_leftInverse hw).injective.eq_iff' (BitVec.setWidth_zero 32 w)

section Statements

variable {w : Nat} {i : Bool → Bool → Instr} (heval : EvalCommand w i)
include heval

/-- An EVAL command chains, since CRC takes the first RESULT back whole. -/
theorem chunkingHolds_of_evalCommand : ChunkingHolds w i := by
  intro ir s n m h hmask
  obtain ⟨A, B, t1, tw, hexec1, hexecw, hresult1, hresultw, hsecond⟩ := exec_chunks heval h ir false
  refine ⟨t1, tw, hexec1, hexecw, fun init2 hinit => ?_⟩
  obtain ⟨t2, hexec2, hresult2⟩ := hsecond t1.result init2
  obtain ⟨-, hw⟩ := registered_width h.registered
  refine ⟨t2, hexec2, ?_⟩
  rw [hresult1, Ne, setWidth_word_eq_zero_iff hw] at hinit
  rw [hresult2, hresultw, hresult1]
  simp only [crcUnder, hmask, setWidth_word_leftInverse hw _] at hinit ⊢
  rw [crcOf_chained B hinit]

/-- An EVAL command that reseeds at the seam differs, in the zero-extended value as in the value. -/
theorem seamDiffers_of_evalCommand : SeamDiffers w i := by
  intro ir s n m h hmask
  obtain ⟨A, B, t1, tw, hexec1, hexecw, hresult1, hresultw, hsecond⟩ := exec_chunks heval h ir false
  refine ⟨t1, tw, hexec1, hexecw, fun init2 hinit hzero => ?_⟩
  obtain ⟨t2, hexec2, hresult2⟩ := hsecond t1.result init2
  obtain ⟨hbyte, hw⟩ := registered_width h.registered
  refine ⟨t2, hexec2, ?_⟩
  rw [hresult1, setWidth_word_eq_zero_iff hw] at hzero
  rw [hresult2, hresultw, hresult1, (setWidth_word_leftInverse hw).injective.ne_iff]
  simp only [crcUnder, hmask, setWidth_word_leftInverse hw _] at hzero ⊢
  exact crcOf_seam_ne B (by omega) (registered_odd h.registered) hinit hzero

end Statements

/-- Settles O46: both are EVAL commands, and the second one resumes from the register that the first one left. -/
theorem chainedEvalsEqualWhole : Obligations.ChainedEvalsEqualWhole :=
  ⟨chunkingHolds_of_evalCommand evalComputesSixSteps.1, chunkingHolds_of_evalCommand evalComputesSixSteps.2⟩

/-- Settles O47: both are EVAL commands, and no buffer brings the reseeded register back to the whole one. -/
theorem seamBreaksChaining : Obligations.SeamBreaksChaining :=
  ⟨seamDiffers_of_evalCommand evalComputesSixSteps.1, seamDiffers_of_evalCommand evalComputesSixSteps.2⟩

end Sys2Proof.Proofs
end

section
/-! PROOFS. Runs (43_host_interface.md rule R175): a step takes exactly one transaction off and leaves the base address,
so a run as long as its program ends with none to come. What every step keeps, every run keeps, the machine invariant
included. -/

namespace Sys2Proof.Proofs

open Sys2Proof.Machine Sys2Proof.Safety

/-- Issuing a word, a command's or not, leaves the transactions to come and the base address. -/
theorem issueWord_keeps_pending_blockBase {c : Word} {s t : State} (h : issueWord c s = .next t) :
    t.pending = s.pending ∧ t.blockBase = s.blockBase := by
  obtain ⟨i, -, hi⟩ | ⟨-, -, he⟩ := issueWord_cases c s
  · obtain ⟨-, hframe⟩ := commandsWriteOnlyBlockOutputs i s t (hi ▸ h)
    rw [hframe]
    exact ⟨rfl, rfl⟩
  · obtain ⟨-, rfl⟩ | ⟨-, rfl⟩ := issue_cases (he ▸ h) <;> exact ⟨rfl, rfl⟩

/-- No transaction adds to those to come or moves the block. -/
theorem perform_keeps_pending_blockBase {x : Transaction} {s t : State} (h : perform x s = .next t) :
    t.pending = s.pending ∧ t.blockBase = s.blockBase := by
  obtain ⟨c, hc⟩ | ⟨a, v, rfl⟩ | rfl | ⟨v, rfl⟩ | ⟨-, rfl⟩ | ⟨a, b, -, rfl⟩ | ⟨a, -, rfl⟩ | ⟨addrs, -, rfl⟩ :=
    perform_cases h
  · exact issueWord_keeps_pending_blockBase hc
  all_goals exact ⟨rfl, rfl⟩

/-- A step takes the first transaction off those to come, where there is one, and leaves the base address. -/
theorem step_pending_blockBase {s t : State} (h : step s = .next t) :
    t.pending = s.pending.tail ∧ t.blockBase = s.blockBase := by
  cases hp : s.pending with
  | nil =>
    obtain rfl : s = t := Host.Outcome.next.inj ((performNext_nil hp).symm.trans h)
    exact ⟨hp, rfl⟩
  | cons x rest => exact perform_keeps_pending_blockBase ((performNext_cons hp).symm.trans h)

/-- A run of `k + 1` steps with an end state is one step to a next state and a run of `k`. -/
theorem step_of_run_succ {k : Nat} {s t : State} (h : core.run (k + 1) s = .next t) :
    ∃ u, step s = .next u ∧ core.run k u = .next t := by
  cases hstep : step s with
  | next u => exact ⟨u, rfl, (run_succ_of_step hstep k).symm.trans h⟩
  | fault _ | refused _ => simp [Host.Core.run, show core.step s = _ from hstep] at h

/-- What every step keeps holds at the end of a run that starts with it. -/
theorem run_keeps {P : State → Prop} (hkeeps : ∀ s t, P s → step s = .next t → P t) {k : Nat} {s t : State}
    (hs : P s) (h : core.run k s = .next t) : P t := by
  induction k generalizing s with
  | zero =>
    obtain rfl : s = t := Host.Outcome.next.inj h
    exact hs
  | succ k ih =>
    obtain ⟨u, hstep, hrun⟩ := step_of_run_succ h
    exact ih (hkeeps s u hs hstep) hrun

/-- `k` steps perform the first `k` transactions. -/
theorem run_pending {k : Nat} {s t : State} (h : core.run k s = .next t) : t.pending = s.pending.drop k := by
  induction k generalizing s with
  | zero =>
    obtain rfl : s = t := Host.Outcome.next.inj h
    rfl
  | succ k ih =>
    obtain ⟨u, hstep, hrun⟩ := step_of_run_succ h
    obtain ⟨hpending, -⟩ := step_pending_blockBase hstep
    rw [ih hrun, hpending, List.drop_tail]

/-- A run that has reached `u` goes on from `u`. -/
theorem run_add_of_run {k : Nat} {s u : State} (h : core.run k s = .next u) (n : Nat) :
    core.run (k + n) s = core.run n u := by
  induction k generalizing s with
  | zero =>
    obtain rfl : s = u := Host.Outcome.next.inj h
    rw [Nat.zero_add]
  | succ k ih =>
    obtain ⟨v, hstep, hrun⟩ := step_of_run_succ h
    rw [Nat.add_right_comm, run_succ_of_step hstep, ih hrun]

/-- A start state meets the invariant where the program states a sound latch and canonical data memory: its table is
unwritten. -/
theorem machineInv_startState {base : Nat} {mem : Memory} {program : List Transaction} {args : ArgRegs}
    {result status fcmd : Word} (hlatch : LatchSound (startState base mem program args result status fcmd))
    (hmem : mem.wf) : MachineInv (startState base mem program args result status fcmd) where
  latch := hlatch
  table := .inl (resetBlock_tbufWord State.reset)
  memory := hmem

/-- Settles O51: the end state is read off the program's length and what every step keeps, and a run cannot go on past
a state that has no next one. -/
theorem runEndsAfterLastTransaction : Obligations.RunEndsAfterLastTransaction := by
  refine ⟨fun base mem program args result status fcmd => ⟨rfl, fun t hrun => ⟨?_, ?_, fun hlatch hmem => ?_⟩⟩, ?_⟩
  · exact (run_pending hrun).trans List.drop_length
  · have hkeeps (s t : State) (hs : s.blockBase = base) (hstep : step s = .next t) : t.blockBase = base :=
      (step_pending_blockBase hstep).2.trans hs
    exact run_keeps hkeeps rfl hrun
  · exact run_keeps stepKeepsMachineInvariant (machineInv_startState hlatch hmem) hrun
  · intro start u k hk hrun hstuck t hend
    obtain ⟨n, hlength⟩ := Nat.exists_eq_add_of_lt hk
    rw [run, hlength, Nat.add_assoc, run_add_of_run hrun] at hend
    obtain ⟨v, hstep, -⟩ := step_of_run_succ hend
    exact hstuck v hstep

end Sys2Proof.Proofs
end

section
/-! PROOFS. One step at a register's offset (43_host_interface.md rules R170 to R173): the offsets that the statements
write out are those of the register map, so a step with an access to come there is `writeReg` or `hostRead` of that
register. -/

namespace Sys2Proof.Proofs

open Sys2Proof.Machine Sys2Proof.Claims

/-- The offsets written out for the argument registers are the map's (10_state.md rule R21). -/
theorem argOffsets_regOffset : ∀ p ∈ argOffsets, p.1 = regOffset (.arg p.2) := by decide

/-- The register list below 0x400 agrees with the offsets (10_state.md rule R21). -/
theorem lowRegs_regOffset : ∀ p ∈ lowRegs, p.1 = regOffset p.2 := by decide

/-- Settles O8: the write reaches the register at its aligned offset; what is not a 32-bit access at such an offset is
refused as every sub-word or misaligned access is. -/
theorem argumentWriteStoresWholeWord : Obligations.ArgumentWriteStoresWholeWord := by
  intro s off r v rest hoff
  obtain rfl : off = regOffset (.arg r) := argOffsets_regOffset (off, r) hoff
  refine ⟨fun hp => ?_, fun size hsize hp => ?_, fun d hpos hlt hp => ?_⟩
  · have hstep : step s = .next ((s.setPending rest).setArg r v) := step_of_pending_wr (r := .arg r) hp
    exact ⟨_, hstep, argRegs_get_set_same _ r v, fun q hq => argRegs_get_set_ne _ v hq, rfl⟩
  · obtain ⟨hsub, -⟩ := subWordAndMisalignedAccessRefused s _ size rest (.inl ⟨v, hp⟩)
    exact hsub hsize
  · rw [Nat.add_assoc] at hp
    obtain ⟨-, hmis⟩ := subWordAndMisalignedAccessRefused s _ .word rest (.inl ⟨v, hp⟩)
    have haligned := regOffset_aligned (.arg r)
    exact hmis rfl (by omega)

/-- What `decodeTableWord` answers is what the decoder answers on that word. -/
theorem decode_of_decodeTableWord {n w : Nat} {i : Instr} (h : decodeTableWord n w = some i) :
    decode (tableWord n w) = .ok i := by
  unfold decodeTableWord at h
  split at h
  · next j hj => exact hj.trans (congrArg Except.ok (Option.some.inj h))
  · cases h

/-- Settles O6: the write reaches CMD, which issues the word; the word that `withFetchWord` places is such a write, and
taking it off gives the state back. -/
theorem stepRunsDecodedCommand : Obligations.StepRunsDecodedCommand := by
  refine ⟨fun s c i rest hp hdecode _ => ?_, fun s w i hdecode => ?_⟩
  · have hstep : step s = issueWord c (s.setPending rest) := step_of_pending_wr (r := .cmd) hp
    exact hstep.trans (issueWord_of_decode_ok hdecode _)
  · have hstep : step (s.withFetchWord 32 w) = issueWord (tableWord 32 w) s :=
      step_of_pending_wr (r := .cmd) (s := s.withFetchWord 32 w) (rest := s.pending) rfl
    exact hstep.trans (issueWord_of_decode_ok (decode_of_decodeTableWord hdecode) s)

/-- Settles O9: each offset of the list is that of a register below 0x400, and the value beside it is what a read of
that register answers. -/
theorem registerReadReturnsValue : Obligations.RegisterReadReturnsValue := by
  intro s off v rest hmem hp
  have hread : (off, some v) ∈ lowRegs.map fun p => (p.1, readReg p.2 s) :=
    List.mem_map_of_mem (f := Prod.map id some) hmem
  obtain ⟨⟨o, r⟩, hlow, heq⟩ := List.mem_map.1 hread
  obtain ⟨rfl, hv⟩ := Prod.mk.inj heq
  obtain rfl : o = regOffset r := lowRegs_regOffset (o, r) hlow
  exact (step_of_pending_rd hp).trans (hostRead_of_some hv)

/-- Settles O11: the write reaches a register that ignores it. -/
theorem readOnlyWriteIgnored : Obligations.ReadOnlyWriteIgnored := by
  intro s off v rest hoff hp
  obtain rfl | rfl | rfl | ⟨i, rfl⟩ := hoff
  · exact step_of_pending_wr (r := .status) hp
  · exact step_of_pending_wr (r := .fcmd) hp
  · exact step_of_pending_wr (r := .result) hp
  · exact step_of_pending_wr (r := .tbuf i) hp

end Sys2Proof.Proofs
end

section
/-! PROOFS. The fault latch over a step (60_exceptions.md rules R203, R205, R206): a register is reached at its own
address only, so STATUS and FCMD are written by a write of CMD or by the reset input; and a word written to CMD either
meets a faulted block, which ignores it, or changes the latch only by taking a fault on itself. -/

namespace Sys2Proof.Proofs

open Sys2Proof.Machine Sys2Proof.Claims

/-! ### The address of a register -/

/-- The map has each register at its own offset only (10_state.md rule R21). -/
theorem regOffset_of_regAt {offset : Nat} {r : HostReg} (h : regAt offset = some r) : offset = regOffset r := by
  unfold regAt at h
  split at h
  · next hwindow =>
    split at h
    · next halign =>
      obtain rfl := Option.some.inj h
      have hindex : (offset - 0x400) / 4 < 2 ^ 8 := by omega
      rw [regOffset, BitVec.toNat_ofNat, Nat.mod_eq_of_lt hindex]
      omega
    · cases h
  · obtain ⟨l₁, l₂, hlow, -⟩ := List.lookup_eq_some_iff.1 h
    exact lowRegs_regOffset (offset, r) (hlow ▸ List.mem_append_right l₁ List.mem_cons_self)

/-- A host access reaches a register only as a 32-bit one at the register's address (20_memory.md rule R55). -/
theorem address_of_locate {base addr : Nat} {size : AccessSize} {r : HostReg} (h : locate base addr size = .ok r) :
    size = .word ∧ addr = base + regOffset r := by
  unfold locate at h
  split_ifs at h with hsize hbase halign
  split at h
  · cases h
  · next q hmap =>
    obtain rfl := Except.ok.inj h
    have hoff := regOffset_of_regAt hmap
    exact ⟨not_not.1 hsize, by omega⟩

/-! ### A word written to CMD -/

/-- A faulted block ignores every word, a command's or not (60_exceptions.md rule R205). -/
theorem issueWord_of_faulted {s : State} (hs : s.faulted = true) (c : Word) : issueWord c s = .next s := by
  obtain ⟨i, -, hi⟩ | ⟨-, -, he⟩ := issueWord_cases c s
  · rw [hi, exec_eq_issue, issue_of_faulted hs]
  · rw [he, execIllegal, issue_of_faulted hs]

/-- A word that makes the block faulted takes a fault on itself, and does nothing else (60_exceptions.md rule R203). -/
theorem issueWord_takes_fault {s t : State} {c : Word} (hs : s.faulted = false) (h : issueWord c s = .next t)
    (ht : t.faulted = true) : ∃ k, t = s.takeFault k c := by
  cases hc : decode c with
  | error e => exact ⟨.illegalCommand, (Host.Outcome.next.inj ((issueWord_of_decode_error hs hc).symm.trans h)).symm⟩
  | ok i =>
    obtain rfl : c = encode i := (decodeInvertsEncode c i).1 hc
    obtain ⟨hf, -⟩ | ⟨-, he⟩ := exec_effect ((issueWord_of_decode_ok hc s).symm.trans h)
    · simp [hs] at hf
    · cases he with
      | faulted k _ => exact ⟨k, rfl⟩
      | reflected _ _ | evaluated _ _ | built _ _ => simp [hs] at ht

/-! ### What can change the latch -/

/-- A write that reached a register issues a word to CMD or leaves the latch. -/
theorem writeReg_latch_cases {r : HostReg} {v : Word} {s t : State} (h : writeReg r v s = .next t) :
    (r = .cmd ∧ issueWord v s = .next t) ∨ (t.status = s.status ∧ t.fcmd = s.fcmd) := by
  cases r with
  | cmd => exact .inl ⟨rfl, h⟩
  | status | fcmd | result | arg _ | tbuf _ =>
    obtain rfl := Host.Outcome.next.inj h
    exact .inr ⟨rfl, rfl⟩

/-- A read that reached a register leaves the latch (43_host_interface.md rule R172). -/
theorem hostRead_keeps_latch {r : HostReg} {s t : State} (h : hostRead r s = .next t) :
    t.status = s.status ∧ t.fcmd = s.fcmd := by
  cases hv : readReg r s with
  | none => cases (hostRead_of_none hv).symm.trans h
  | some v =>
    obtain rfl := Host.Outcome.next.inj ((hostRead_of_some hv).symm.trans h)
    exact ⟨rfl, rfl⟩

/-- A transaction issues a word at the address of CMD, or is the reset input, or leaves the latch. -/
theorem perform_latch_cases {x : Transaction} {s t : State} (h : perform x s = .next t) :
    (∃ c, x = wr s.blockBase .cmd c ∧ issueWord c s = .next t) ∨ (x = .reset ∧ t = s.resetBlock) ∨
    (x ≠ .reset ∧ t.status = s.status ∧ t.fcmd = s.fcmd) := by
  cases x with
  | write addr size v =>
    simp only [perform] at h
    split at h
    · cases h
    · next r hr =>
      obtain ⟨rfl, rfl⟩ := address_of_locate hr
      obtain ⟨rfl, hissue⟩ | hkept := writeReg_latch_cases h
      · exact .inl ⟨v, rfl, hissue⟩
      · exact .inr (.inr ⟨nofun, hkept⟩)
  | read addr size =>
    simp only [perform] at h
    split at h
    · cases h
    · exact .inr (.inr ⟨nofun, hostRead_keeps_latch h⟩)
  | reset => exact .inr (.inl ⟨rfl, (Host.Outcome.next.inj h).symm⟩)
  | storeByte _ _ | hideByte _ | contend _ =>
    obtain rfl := Host.Outcome.next.inj h
    exact .inr (.inr ⟨nofun, rfl, rfl⟩)

/-- A step issues a word that was to be written to CMD, or performs the reset input, or leaves the latch. -/
theorem step_latch_cases {s t : State} (h : step s = .next t) :
    (∃ c rest, s.pending = wr s.blockBase .cmd c :: rest ∧ issueWord c (s.setPending rest) = .next t) ∨
    (∃ rest, s.pending = .reset :: rest ∧ t = (s.setPending rest).resetBlock) ∨
    ((∀ rest, s.pending ≠ .reset :: rest) ∧ t.status = s.status ∧ t.fcmd = s.fcmd) := by
  cases hp : s.pending with
  | nil =>
    obtain rfl := Host.Outcome.next.inj ((performNext_nil hp).symm.trans h)
    exact .inr (.inr ⟨nofun, rfl, rfl⟩)
  | cons x rest =>
    obtain ⟨c, rfl, hc⟩ | ⟨rfl, ht⟩ | ⟨hx, hkept⟩ := perform_latch_cases ((performNext_cons hp).symm.trans h)
    · exact .inl ⟨c, rest, rfl, hc⟩
    · exact .inr (.inl ⟨rest, rfl, ht⟩)
    · exact .inr (.inr ⟨fun _ heq => hx (List.cons.inj heq).1, hkept⟩)

/-! ### The statements -/

/-- FAULTED is a bit of STATUS (10_state.md rule R26). -/
theorem faulted_congr {s t : State} (h : t.status = s.status) : t.faulted = s.faulted :=
  congrArg (BitVec.getLsbD · 0) h

/-- The STATUS word of a fault from the number of its cause (60_exceptions.md rule R203). -/
theorem statusWord_eq_ofNat (k : Cause) : k.statusWord = (BitVec.ofNat 32 k.code.toNat <<< 4) ||| 0x00000001 := by
  rw [BitVec.ofNat_toNat, Cause.statusWord]

/-- Settles O17: the block ignores the word written to CMD, while an argument write and a read do not look at the
latch. -/
theorem faultedBlockIgnoresCommands : Obligations.FaultedBlockIgnoresCommands := by
  refine fun s rest hs => ⟨fun c hp => ?_, fun off r v hoff hp => ?_, fun r v hv hp => ?_, fun r hn hp => ?_⟩
  · have hstep : step s = issueWord c (s.setPending rest) := step_of_pending_wr (r := .cmd) hp
    exact hstep.trans (issueWord_of_faulted (s := s.setPending rest) hs c)
  · obtain rfl : off = regOffset (.arg r) := argOffsets_regOffset (off, r) hoff
    exact step_of_pending_wr (r := .arg r) hp
  · exact (step_of_pending_rd hp).trans (hostRead_of_some (s := s.setPending rest) hv)
  · exact (step_of_pending_rd hp).trans (hostRead_of_none (s := s.setPending rest) hn)

/-- Settles O18: a word written to CMD is ignored, the reset input clears STATUS, and no other step touches the
latch. -/
theorem onlyResetClearsFault : Obligations.OnlyResetClearsFault := by
  intro s t hs h
  obtain ⟨c, rest, hp, hc⟩ | ⟨rest, hp, rfl⟩ | ⟨hp, hstatus, hfcmd⟩ := step_latch_cases h
  · have hrest : (s.setPending rest).faulted = true := hs
    obtain rfl := Host.Outcome.next.inj ((issueWord_of_faulted hrest c).symm.trans hc)
    exact ⟨fun _ hreset => (nomatch hp.symm.trans hreset), fun _ => ⟨hs, rfl, rfl⟩⟩
  · exact ⟨fun _ _ => resetBlock_faulted _, fun hne => absurd hp (hne rest)⟩
  · exact ⟨fun rest hreset => absurd hreset (hp rest), fun _ => ⟨(faulted_congr hstatus).trans hs, hstatus, hfcmd⟩⟩

/-- Settles O19: of the steps that can change the latch, reset leaves FAULTED 0, so it was a word written to CMD, which
took a fault on itself. -/
theorem faultEntryWritesLatchOnly : Obligations.FaultEntryWritesLatchOnly := by
  intro s t hs h ht
  obtain ⟨c, rest, hp, hc⟩ | ⟨rest, -, rfl⟩ | ⟨-, hstatus, -⟩ := step_latch_cases h
  · obtain ⟨k, rfl⟩ := issueWord_takes_fault (s := s.setPending rest) hs hc ht
    obtain ⟨hpos, hle⟩ := cause_code_bounds k
    exact ⟨c, k.code.toNat, rest, hp, hpos, hle, by rw [← statusWord_eq_ofNat]; rfl⟩
  · simp at ht
  · rw [faulted_congr hstatus, hs] at ht
    cases ht

/-- Settles O7: with no transaction to come the block is idle. -/
theorem idleStepChangesNothing : Obligations.IdleStepChangesNothing := fun _ => performNext_nil

end Sys2Proof.Proofs
end

section
/-! PROOFS. The host that restores the register before it chains (70_reset_and_hazards.md rule R236): what it makes of a
RESULT undoes steps 6 and 5 and then step 3 in advance, so that step 3 of the second command leaves the register where the
first command left it. -/

namespace Sys2Proof.Proofs

open Sys2Proof.Machine Sys2Proof.Claims

/-- The host's XOR and REV undo steps 5 and 6, and what is left is the register XOR XIN. -/
theorem restored_of_finished {w : Nat} {rr : Bool} {s : State} {result : Word} {register : BitVec w}
    (h : result.setWidth w = finished rr register (s.args.xout.setWidth w)) :
    restored w rr s result = register ^^^ s.args.xin.setWidth w := by
  have hreflected : result.setWidth w ^^^ s.args.xout.setWidth w = if rr then register.reverse else register := by
    rw [h, finished, BitVec.xor_assoc, BitVec.xor_self, BitVec.xor_zero]
  rw [restored, hreflected]
  cases rr with
  | false => rfl
  | true => simp only [if_true, BitVec.reverse_reverse_eq]

/-- The second command's XIN meets the one that the host put in, so the fold over the second part goes on from the
register after the first. -/
theorem foldBuffer_append {w : Nat} (p : BitVec w) (ir : Bool) (crc xin : BitVec w) (A B : List Byte) :
    foldBuffer p ir crc xin (A ++ B) = foldBuffer p ir (foldBuffer p ir crc xin A ^^^ xin) xin B := by
  rw [foldBuffer, List.foldl_append, foldBuffer, foldBuffer, BitVec.xor_assoc, BitVec.xor_self, BitVec.xor_zero]

/-- An EVAL from the restored register, with INIT 0, ends as the one EVAL over both parts. -/
theorem crcOf_resumed {w : Nat} (p crc init xin xout : BitVec w) (ir rr : Bool) (A B : List Byte) :
    crcOf p (foldBuffer p ir (seeded crc init) xin A ^^^ xin) 0 xin xout ir rr B =
      crcOf p crc init xin xout ir rr (A ++ B) := by
  rw [crcOf_eq_foldBuffer, seeded_of_running (.inl rfl), ← foldBuffer_append, ← crcOf_eq_foldBuffer]

/-- An EVAL command chains from the restored register in every configuration. -/
theorem restoredChainingHolds_of_evalCommand {w : Nat} {i : Bool → Bool → Instr} (heval : EvalCommand w i) :
    RestoredChainingHolds w i := by
  intro ir rr s n m h
  obtain ⟨A, B, t1, tw, hexec1, hexecw, hresult1, hresultw, hsecond⟩ := exec_chunks heval h ir rr
  obtain ⟨t2, hexec2, hresult2⟩ := hsecond ((restored w rr s t1.result).setWidth 32) 0
  obtain ⟨-, hw⟩ := registered_width h.registered
  refine ⟨t1, tw, t2, hexec1, hexecw, hexec2, ?_⟩
  have hfinished := (congrArg (BitVec.setWidth w) hresult1).trans (setWidth_word_leftInverse hw _)
  rw [crcUnder, crcOf_eq_foldBuffer] at hfinished
  have hinit : (0 : Word).setWidth w = 0 := BitVec.setWidth_zero w 32
  rw [hresult2, hresultw, restored_of_finished hfinished, crcUnder, setWidth_word_leftInverse hw, hinit, crcOf_resumed,
    crcUnder]

/-- Settles O48: both are EVAL commands, and the host's word makes the second one resume from the register that the first
one left. -/
theorem restoredChainingEqualsWhole : Obligations.RestoredChainingEqualsWhole :=
  ⟨restoredChainingHolds_of_evalCommand evalComputesSixSteps.1,
    restoredChainingHolds_of_evalCommand evalComputesSixSteps.2⟩

end Sys2Proof.Proofs
end

section
/-! PROOFS. Reset (70_reset_and_hazards.md rule R230): the reset input gives every register of the block the value it has
after reset, and the state after reset is itself one that the reset input leaves. No command does the same, since a
faulted block ignores it; and every command ends at once (rule R239), since each is issued. -/

namespace Sys2Proof.Proofs

open Sys2Proof.Machine Sys2Proof.Safety

/-- The block's own state after the reset input (10_state.md rule R21). -/
theorem resetBlock_registers (s : State) :
    (∀ r : ArgReg, s.resetBlock.args.get r = 0) ∧ s.resetBlock.result = 0 ∧ s.resetBlock.status = 0 ∧
    s.resetBlock.fcmd = 0 ∧ readReg .cmd s.resetBlock = some 0 ∧ ∀ i : Byte, s.resetBlock.tbufWord i = none :=
  ⟨argRegs_zero_get, rfl, rfl, rfl, rfl, resetBlock_tbufWord s⟩

/-- A step with the reset input to come resets the block. -/
theorem step_of_pending_reset {s : State} {rest : List Transaction} (h : s.pending = .reset :: rest) :
    step s = .next (s.setPending rest).resetBlock :=
  performNext_cons h

/-- Settles O15: the state after reset is the one that the reset input leaves it in. -/
theorem resetStateHoldsSpecValues : Obligations.ResetStateHoldsSpecValues := by
  have hreset : State.reset = State.reset.resetBlock := rfl
  rw [Obligations.ResetStateHoldsSpecValues, hreset]
  exact resetBlock_registers State.reset

/-- Settles O16: the step is the reset input, which is about the block's own state alone; and a faulted block ignores
every command. -/
theorem resetInputRestoresBlock : Obligations.ResetInputRestoresBlock := by
  refine ⟨fun s rest hp => ?_, fun i s t hs h => ?_⟩
  · obtain ⟨hargs, hresult, hstatus, hfcmd, hcmd, htbuf⟩ := resetBlock_registers (s.setPending rest)
    exact ⟨_, step_of_pending_reset hp, hargs, hresult, hstatus, hfcmd, hcmd, htbuf, rfl, rfl, rfl, rfl, rfl, rfl⟩
  · rw [exec_eq_issue, issue_of_faulted hs] at h
    exact Host.Outcome.next.inj h ▸ hs

/-- Settles O24: every command is issued, and issuing answers the state as it was or the command's change of it. -/
theorem everyCommandAnswersNext : Obligations.EveryCommandAnswersNext := fun i s => ⟨_, exec_eq_issue i s⟩

/-- Settles O25: the state after reset is the start state of the program that states nothing. -/
theorem resetMeetsMachineInvariant : Obligations.ResetMeetsMachineInvariant := by
  have hstart : State.reset = startState 0 [] [] := rfl
  have hempty : Memory.wf [] := ⟨.nil, nofun⟩
  rw [Obligations.ResetMeetsMachineInvariant, hstart]
  exact machineInv_startState (.inl ⟨rfl, rfl⟩) hempty

end Sys2Proof.Proofs
end
